-- ==== Sys2Proof/Word.lean ====
section
/-! DEFINITION. The word types of MRISC32: a 32-bit word, a byte, and a register number (R6, R10). -/

namespace Sys2Proof

/-- A 32-bit word: a scalar register, a vector element, an address, an instruction word (R6). -/
abbrev Word := BitVec 32

/-- One byte of memory (R40). -/
abbrev Byte := BitVec 8

/-- A 5-bit register number, the content of a REG field (R10, R72). -/
abbrev Reg := BitVec 5

/-- Register number 0: Z among the scalar registers, VZ among the vector registers (R11, R21). -/
def Reg.z : Reg := 0#5

/-- Register number 30: LR, the link register (R14). -/
def Reg.lr : Reg := 30#5

/-- Register number 31: VL, the vector length register; PC as the base of J and JL (R15, R16). -/
def Reg.vl : Reg := 31#5

end Sys2Proof
end

