-- ==== Sys2Proof/Config.lean ====
section
/-! DEFINITION. What an implementation fixes (the parameters of R5, held as plain data in State) and the
free values: opaque constants without a body, of which nothing can be proved but what the model says of them. -/

namespace Sys2Proof

/-- The kinds of memory access `Mapped` distinguishes (R5, R47). -/
inductive AccessKind
  | fetch
  | read
  | write
  deriving DecidableEq, Repr

/-- One stretch of the platform's address map: the accesses whose lowest address is at least `base` and below
`base + size`, of the widths in bytes and the kinds it accepts. DESIGN CHOICE (log entry 7): the open predicate `Mapped`
as plain data; every predicate of R5's type is a list of these (Laws/Host.lean). -/
structure Region where
  base : Nat
  size : Nat
  widths : List Nat
  canFetch : Bool
  canRead : Bool
  canWrite : Bool
  deriving DecidableEq, Repr

/-- The class of a floating-point encoding (R254). -/
inductive FpClass
  | finite
  | inf
  | nan
  deriving DecidableEq, Repr

/-- The optional architecture modules (R2). -/
inductive ArchModule
  | vm
  | pm
  | fm
  | sm
  deriving DecidableEq, Repr

/-- The implementation parameters of R5 that are data: which modules exist, N, CACHE_LINE, F8Special and Mapped.
No instruction changes them. DESIGN CHOICE (log entry 1): they are a field of State, so that a statement about
every state is a statement about every implementation. -/
structure Impl where
  /-- HAS_VM (R2, R25). -/
  hasVM : Bool
  /-- HAS_PM (R2, R25). -/
  hasPM : Bool
  /-- HAS_FM (R2, R25). -/
  hasFM : Bool
  /-- HAS_SM (R2, R25). -/
  hasSM : Bool
  /-- N, the number of 32-bit elements of a vector register when HAS_VM (R20). -/
  n : Nat
  /-- CACHE_LINE in bytes (R329). -/
  cacheLine : Nat
  /-- F8Special (R256): the class of the float8 encodings listed here; an encoding that is not listed has the
  class of the default pattern of R251. -/
  f8Class : List (Byte × FpClass)
  /-- The platform's map (R47). -/
  mapped : List Region
  deriving DecidableEq, Repr

/-- Whether an implementation has a module (R5). -/
def Impl.has (p : Impl) : ArchModule → Bool
  | .vm => p.hasVM
  | .pm => p.hasPM
  | .fm => p.hasFM
  | .sm => p.hasSM

/-- The number of elements of each vector register: N with VM, 0 without (R20, R27). -/
def Impl.elements (p : Impl) : Nat := if p.hasVM then p.n else 0

/-- A power of two, as R20, R27 and R329 require of N and CACHE_LINE. -/
def isPowerOfTwo (n : Nat) : Bool := n != 0 && 2 ^ n.log2 == n

/-- The legal parameter values of R5: N a power of two and at least 16 when HAS_VM, and below 2^32, since MAX_VL holds
it in 32 bits (R27; DEDUCED, log entry 1); CACHE_LINE a power of two and at least 4. -/
def Impl.legal (p : Impl) : Bool :=
  (!p.hasVM || (isPowerOfTwo p.n && decide (16 ≤ p.n) && decide (p.n < 4294967296))) &&
    (isPowerOfTwo p.cacheLine && decide (4 ≤ p.cacheLine))

/-- The four division instructions, as an argument of `Config.divZero` (R176 to R179). -/
inductive DivOp
  | div
  | divu
  | rem
  | remu
  deriving DecidableEq, Repr

/-- The operations that call FpSpecial (R255, R256, R258 to R263, R272 to R277). FUNPH uses `funpl` (R256). -/
inductive FpOp
  | fadd
  | fsub
  | fmul
  | fdiv
  | fmin
  | fmax
  | itof
  | utof
  | ftoi
  | ftou
  | ftoir
  | ftour
  | fpack
  | funpl
  deriving DecidableEq, Repr

/-- A nonzero real that an instruction computes before rounding: (-1)^neg · (num / den) · 2^exp, in lowest terms
with num and den odd, so that equal reals are equal values of this type. Every real of file 46 is of this form. -/
structure ExactReal where
  neg : Bool
  num : Nat
  den : Nat
  exp : Int
  deriving DecidableEq, Repr

/-- FREE VALUE (log entry 12; R176 to R179, D9): DivZero(op, bits, b, c), the result of an integer division or
remainder by zero. -/
opaque Config.divZero (op : DivOp) (bits : Nat) (b c : BitVec bits) : BitVec bits

/-- FREE VALUE (log entry 13; R252, D10): what FpRound(fmt, r) gives, in the format of width `bits`, for a nonzero
real r that the format does not represent exactly. -/
opaque Config.fpRoundInexact (bits : Nat) (r : ExactReal) : BitVec bits

/-- FREE VALUE (log entry 14; R255, D11, D13): FpSpecial(op, fmt, b, c) with a result of `bits` bits. -/
opaque Config.fpSpecial (op : FpOp) (bits : Nat) {src : Nat} (b c : BitVec src) : BitVec bits

/-- FREE VALUE (log entry 10; R327, D20): the Wake stream that goes on for ever: whether an external event arrives at
its k-th moment in standby. -/
opaque Config.wake (k : Nat) : Bool

/-- FREE VALUE (log entry 15; R243, D29): Crc32cStep. -/
opaque Config.crc32cStep (crc : Word) (b : Byte) : Word

/-- FREE VALUE (log entry 15; R243, D29): Crc32Step. -/
opaque Config.crc32Step (crc : Word) (b : Byte) : Word

end Sys2Proof
end

