-- ==== Sys2Proof/Machine/State.lean ====
section
/-! DEFINITION. The state of the machine as plain data, the reasons a step can stop, and the state after reset
(R10 to R33, R56, R327, R341, R360). -/

namespace Sys2Proof.Machine

/-- The cache stage of one byte of memory (R56, R329): 0 clean, 1 stored, 2 flushed, 3 invalidated. -/
inductive Stage
  | clean
  | stored
  | flushed
  | invalidated
  deriving DecidableEq, Repr

/-- Memory: the bytes that differ from what an unlisted address reads as, addresses strictly rising (R40). -/
abbrev Memory := List Host.Cell

/-- The cache stages that are not clean, addresses strictly rising (R56). -/
abbrev Stages := List (Nat × Stage)

/-- The host's Halt predicate as plain data: a Boolean combination of facts about the state (R366, D21). Every predicate
on the architectural state is one (Laws/Host.lean). DESIGN CHOICE (log entry 11). -/
inductive HaltPred
  /-- Never. -/
  | never
  /-- pc is this address. -/
  | pcIs (a : Word)
  /-- The scalar register reads this. -/
  | regIs (r : Reg) (v : Word)
  /-- The element of the vector register reads this. -/
  | elemIs (r : Reg) (i : Nat) (v : Word)
  /-- The byte of memory is this. -/
  | byteIs (a : Word) (v : Byte)
  /-- The byte of memory is at this cache stage. -/
  | stageIs (a : Word) (g : Stage)
  /-- The processor is in standby. -/
  | inStandby
  /-- The Wake stream is exhausted. -/
  | noWakeLeft
  | not (p : HaltPred)
  | both (p q : HaltPred)
  | either (p q : HaltPred)
  deriving DecidableEq, Repr

/-- What the host supplies during a run: Wake and Halt (R5, R327, R366). No instruction changes it. -/
structure HostPort where
  /-- The Wake stream (R327, D20): one entry for each coming moment spent in standby, true when an external event
  arrives at that moment. DESIGN CHOICE (log entry 10). -/
  wakes : List Bool
  /-- The Wake stream after the last entry of `wakes`: exhausted, or endless, going on as `Config.wake` from an index on.
  DESIGN CHOICE (log entry 10). -/
  wakesThen : Option Nat
  /-- Halt (R366, D21): the run has ended when it holds. DESIGN CHOICE (log entry 11). -/
  halt : HaltPred
  deriving DecidableEq, Repr

/-- The state of one MRISC32 processor, its memory, and what its implementer and host fixed for it. -/
structure State where
  /-- R0 to R31 (R10). Entry 0 is never read: Z reads 0 (R11). -/
  regs : Vector Word 32
  /-- The program counter: the address of the current instruction (R17). -/
  pc : Word
  /-- V0 to V31, each a list of its N elements (R20). Entry 0 is never read: VZ reads 0 (R21). -/
  vregs : Vector (List Word) 32
  /-- The standby state entered by WAIT (R327). -/
  standby : Bool
  /-- Memory (R29, R40). -/
  mem : Memory
  /-- The cache stages (R56, R329). -/
  stages : Stages
  /-- The implementation parameters (R5), from which the two read-only system registers are computed (R26, R27). -/
  impl : Impl
  /-- The host's Wake and Halt (R5). -/
  host : HostPort
  deriving DecidableEq, Repr

/-- The model-level faults, the complete list of R341. Each ends the run and carries the information R341 names and
the reported state: the state before the faulting instruction, or, for a fault at element i of a vector load or store,
the state with the elements below i done (R138, R344). All are safe: the hardware's behaviour is unknown there and the
model stops (log entry 18). -/
inductive Fault
  /-- Fetch with pc not a multiple of 4 (R46). Safe. -/
  | misalignedFetch (pc : Word) (final : State)
  /-- A fetch, load or store outside what the platform maps (R47). Safe. -/
  | accessFault (addr : Word) (kind : AccessKind) (final : State)
  /-- Fetch of a byte that was stored to and not made fetchable (R56). Safe. -/
  | staleInstructionFetch (pc : Word) (final : State)
  /-- A reserved, vacant or unavailable encoding (R97, R133). Safe. -/
  | illegalInstruction (iw : Word) (final : State)
  /-- A vector variant with VL > N, or a folding variant with 2 VL > N (R22, R128). Safe. -/
  | vectorLengthFault (vl : Word) (final : State)
  /-- A 2- or 4-byte data access at an address that is not a multiple of its size (R45). Safe. -/
  | misalignedAccess (addr : Word) (n : Nat) (final : State)
  /-- XCHGSR that reads or writes a register number other than 0x0000 and 0x0010 (R28, R325). Safe. -/
  | unknownSystemRegister (n : Word) (final : State)
  /-- XCHGSR that writes CPU_FEATURES_0 or MAX_VL (R28, R325). Safe. -/
  | readOnlySystemRegister (n : Word) (final : State)
  /-- CCTRL that invalidates data cache contents stored and not flushed (R329). Safe. -/
  | dirtyDataInvalidate (a b : Word) (final : State)
  deriving DecidableEq, Repr

/-- Why the machine takes no step. -/
inductive Refusal
  /-- exec has no meaning for the instruction yet. Safe: it stops. No arm of exec answers it. -/
  | notModelled (mnemonic : String)
  /-- The host's Halt predicate holds: the run has ended with this state (R366 (b)). Raised by step before a fetch
  and in standby. Safe: the host asked for it. -/
  | halted (final : State)
  deriving DecidableEq, Repr

/-- The implementation parameters at reset: every module present, N = 16, CACHE_LINE = 32, the default F8Special,
every address mapped. DESIGN CHOICE (log entries 1, 7, 8, 9): open parameters of R5. -/
def resetImpl : Impl where
  hasVM := true
  hasPM := true
  hasFM := true
  hasSM := true
  n := 16
  cacheLine := 32
  f8Class := []
  mapped := [{ base := 0, size := 4294967296, widths := [1, 2, 4], canFetch := true, canRead := true, canWrite := true }]

/-- The machine right after reset (R33, R360). Fixed by the spec: Z and VZ zero, running, every stage clean. Every
other value is open there and named by log entries 1 to 11 (DESIGN CHOICE). -/
def State.reset : State where
  regs := Vector.replicate 32 0#32
  pc := 0#32
  vregs := Vector.replicate 32 (List.replicate 16 0#32)
  standby := false
  mem := []
  stages := []
  impl := resetImpl
  host := { wakes := [], wakesThen := none, halt := .never }

end Sys2Proof.Machine
end

