-- ==== Sys2Proof/Machine/Memory.lean ====
section
/-! DEFINITION. Sparse address maps in one canonical form, and what an unlisted byte of memory is (R40, R56). -/

namespace Sys2Proof.Machine

/-- What a byte of memory that is not listed reads as. DESIGN CHOICE, unsafe (log entry 5): the launch contents are
open (R33, R360). -/
def unlistedByte : Byte := 0#8

/-- The number of byte addresses (R40). -/
def addressSpace : Nat := 4294967296

/-- The value at an address of a sparse map whose unlisted addresses hold `d`. -/
def sparseGet {α : Type} (d : α) : List (Nat × α) → Nat → α
  | [], _ => d
  | (k, v) :: l, a => if k = a then v else sparseGet d l a

/-- A sparse map with the value at one address changed, in canonical form again: a value equal to `d` is not
listed. -/
def sparseSet {α : Type} [DecidableEq α] (d : α) : List (Nat × α) → Nat → α → List (Nat × α)
  | [], a, v => if v = d then [] else [(a, v)]
  | (k, w) :: l, a, v =>
    if a < k then (if v = d then (k, w) :: l else (a, v) :: (k, w) :: l)
    else if a = k then (if v = d then l else (a, v) :: l)
    else (k, w) :: sparseSet d l a v

/-- The canonical form from an address on: addresses strictly rising, within the address space, no value `d`. -/
def sparseWfFrom {α : Type} [DecidableEq α] (d : α) : Nat → List (Nat × α) → Bool
  | _, [] => true
  | lo, (k, v) :: l => decide (lo ≤ k) && decide (k < addressSpace) && decide (v ≠ d) && sparseWfFrom d (k + 1) l

/-- Memory is in canonical form. -/
def Memory.wf (m : Memory) : Bool := sparseWfFrom unlistedByte 0 m

/-- The stages are in canonical form. -/
def Stages.wf (m : Stages) : Bool := sparseWfFrom Stage.clean 0 m

end Sys2Proof.Machine
end

