-- ==== Sys2Proof/Syntax.lean ====
section
/-! DEFINITION. The instructions: one constructor of `Instr` for each of the 143 rows of spec/opcode_table.json
(R88 to R92). A constructor named with a final `I` is the format C (immediate) form of its mnemonic. The fields are
the fields of the instruction word, in the order V, T, REGa, REGb, REGc or IM (R71, R72). -/

namespace Sys2Proof

/-- The two-bit vector mode V of format B (R74): 00, 10, 11 and 01. -/
inductive VMode
  /-- V = 00: scalar operands (R125). -/
  | scalar
  /-- V = 10: vector operands 1 and 2 (load/store: 1 only), scalar operand 3 (R122, R123). -/
  | vecScalar
  /-- V = 11: vector operands (load/store: scalar base) (R122, R123). -/
  | vecVec
  /-- V = 01: folding (R128); reserved in load/store. -/
  | fold
  deriving DecidableEq, Repr

/-- The one-bit vector mode of formats A and C, the upper bit of V (R74): 0 is V = 00, 1 is V = 10. -/
inductive VBit
  | scalar
  | vector
  deriving DecidableEq, Repr

/-- The two-bit mode a one-bit V stands for: its lower bit is implicitly zero (R74). -/
def VBit.mode : VBit → VMode
  | .scalar => .scalar
  | .vector => .vecScalar

/-- T as a packed data type (R75, R124): 00 one word, 01 four bytes (`.B`), 10 two half-words (`.H`). -/
inductive Packing
  | word
  | byte
  | half
  deriving DecidableEq, Repr

/-- T as the scale of a load/store offset (R75): 00, 01, 10, 11 are *1, *2, *4, *8. -/
inductive Scale
  | x1
  | x2
  | x4
  | x8
  deriving DecidableEq, Repr

/-- T as the operand negation of AND, OR and XOR (R215): 00 none, 01 `.PN`, 10 `.NP`, 11 `.NN`. -/
inductive Negate
  | pp
  | pn
  | np
  | nn
  deriving DecidableEq, Repr

/-- T as the operand permutation of SEL (R219): 00 none, 01 `.132`, 10 `.213`, 11 `.231`. -/
inductive SelPerm
  | p123
  | p132
  | p213
  | p231
  deriving DecidableEq, Repr

/-- T as the data width of CRC32C and CRC32 (R244): 00 `.8`, 01 `.16`, 10 `.32`. -/
inductive CrcWidth
  | w8
  | w16
  | w32
  deriving DecidableEq, Repr

/-- The instructions of MRISC32 v0.4.2. -/
inductive Instr
  -- Format A: two register operands (R88).
  | clz (v : VBit) (t : Packing) (a b : Reg)
  | ctz (v : VBit) (t : Packing) (a b : Reg)
  | clo (v : VBit) (t : Packing) (a b : Reg)
  | cto (v : VBit) (t : Packing) (a b : Reg)
  | popcnt (v : VBit) (t : Packing) (a b : Reg)
  | rev (v : VBit) (t : Packing) (a b : Reg)
  | funpl (v : VBit) (t : Packing) (a b : Reg)
  | funph (v : VBit) (t : Packing) (a b : Reg)
  | wait
  | sync
  | cctrl (a b : Reg)
  | crc32c (v : VBit) (t : CrcWidth) (a b : Reg)
  | crc32 (v : VBit) (t : CrcWidth) (a b : Reg)
  -- Format B: three register operands (R89).
  | stb (v : VMode) (t : Scale) (a b c : Reg)
  | sth (v : VMode) (t : Scale) (a b c : Reg)
  | stw (v : VMode) (t : Scale) (a b c : Reg)
  | ldb (v : VMode) (t : Scale) (a b c : Reg)
  | ldh (v : VMode) (t : Scale) (a b c : Reg)
  | ldw (v : VMode) (t : Scale) (a b c : Reg)
  | ldub (v : VMode) (t : Scale) (a b c : Reg)
  | lduh (v : VMode) (t : Scale) (a b c : Reg)
  | ldea (v : VMode) (t : Scale) (a b c : Reg)
  | and (v : VMode) (t : Negate) (a b c : Reg)
  | or (v : VMode) (t : Negate) (a b c : Reg)
  | xor (v : VMode) (t : Negate) (a b c : Reg)
  | ebf (v : VMode) (t : Packing) (a b c : Reg)
  | ebfu (v : VMode) (t : Packing) (a b c : Reg)
  | mkbf (v : VMode) (t : Packing) (a b c : Reg)
  | add (v : VMode) (t : Packing) (a b c : Reg)
  | sub (v : VMode) (t : Packing) (a b c : Reg)
  | min (v : VMode) (t : Packing) (a b c : Reg)
  | max (v : VMode) (t : Packing) (a b c : Reg)
  | minu (v : VMode) (t : Packing) (a b c : Reg)
  | maxu (v : VMode) (t : Packing) (a b c : Reg)
  | seq (v : VMode) (t : Packing) (a b c : Reg)
  | sne (v : VMode) (t : Packing) (a b c : Reg)
  | slt (v : VMode) (t : Packing) (a b c : Reg)
  | sltu (v : VMode) (t : Packing) (a b c : Reg)
  | sle (v : VMode) (t : Packing) (a b c : Reg)
  | sleu (v : VMode) (t : Packing) (a b c : Reg)
  | shuf (v : VMode) (a b c : Reg)
  | xchgsr (a b c : Reg)
  | mul (v : VMode) (t : Packing) (a b c : Reg)
  | div (v : VMode) (t : Packing) (a b c : Reg)
  | divu (v : VMode) (t : Packing) (a b c : Reg)
  | rem (v : VMode) (t : Packing) (a b c : Reg)
  | remu (v : VMode) (t : Packing) (a b c : Reg)
  | madd (v : VMode) (t : Packing) (a b c : Reg)
  | sel (v : VMode) (t : SelPerm) (a b c : Reg)
  | ibf (v : VMode) (t : Packing) (a b c : Reg)
  | mulhi (v : VMode) (t : Packing) (a b c : Reg)
  | mulhiu (v : VMode) (t : Packing) (a b c : Reg)
  | mulq (v : VMode) (t : Packing) (a b c : Reg)
  | mulqr (v : VMode) (t : Packing) (a b c : Reg)
  | pack (v : VMode) (t : Packing) (a b c : Reg)
  | packs (v : VMode) (t : Packing) (a b c : Reg)
  | packsu (v : VMode) (t : Packing) (a b c : Reg)
  | packhi (v : VMode) (t : Packing) (a b c : Reg)
  | packhir (v : VMode) (t : Packing) (a b c : Reg)
  | packhiur (v : VMode) (t : Packing) (a b c : Reg)
  | fmin (v : VMode) (t : Packing) (a b c : Reg)
  | fmax (v : VMode) (t : Packing) (a b c : Reg)
  | fseq (v : VMode) (t : Packing) (a b c : Reg)
  | fsne (v : VMode) (t : Packing) (a b c : Reg)
  | fslt (v : VMode) (t : Packing) (a b c : Reg)
  | fsle (v : VMode) (t : Packing) (a b c : Reg)
  | fsunord (v : VMode) (t : Packing) (a b c : Reg)
  | fsord (v : VMode) (t : Packing) (a b c : Reg)
  | itof (v : VMode) (t : Packing) (a b c : Reg)
  | utof (v : VMode) (t : Packing) (a b c : Reg)
  | ftoi (v : VMode) (t : Packing) (a b c : Reg)
  | ftou (v : VMode) (t : Packing) (a b c : Reg)
  | ftoir (v : VMode) (t : Packing) (a b c : Reg)
  | ftour (v : VMode) (t : Packing) (a b c : Reg)
  | fpack (v : VMode) (t : Packing) (a b c : Reg)
  | fadd (v : VMode) (t : Packing) (a b c : Reg)
  | fsub (v : VMode) (t : Packing) (a b c : Reg)
  | fmul (v : VMode) (t : Packing) (a b c : Reg)
  | fdiv (v : VMode) (t : Packing) (a b c : Reg)
  | adds (v : VMode) (t : Packing) (a b c : Reg)
  | addsu (v : VMode) (t : Packing) (a b c : Reg)
  | addh (v : VMode) (t : Packing) (a b c : Reg)
  | addhu (v : VMode) (t : Packing) (a b c : Reg)
  | addhr (v : VMode) (t : Packing) (a b c : Reg)
  | addhur (v : VMode) (t : Packing) (a b c : Reg)
  | subs (v : VMode) (t : Packing) (a b c : Reg)
  | subsu (v : VMode) (t : Packing) (a b c : Reg)
  | subh (v : VMode) (t : Packing) (a b c : Reg)
  | subhu (v : VMode) (t : Packing) (a b c : Reg)
  | subhr (v : VMode) (t : Packing) (a b c : Reg)
  | subhur (v : VMode) (t : Packing) (a b c : Reg)
  -- Format C: two register operands and a 15-bit immediate (R90).
  | stbI (v : VBit) (a b : Reg) (im : BitVec 15)
  | sthI (v : VBit) (a b : Reg) (im : BitVec 15)
  | stwI (v : VBit) (a b : Reg) (im : BitVec 15)
  | ldbI (v : VBit) (a b : Reg) (im : BitVec 15)
  | ldhI (v : VBit) (a b : Reg) (im : BitVec 15)
  | ldwI (v : VBit) (a b : Reg) (im : BitVec 15)
  | ldubI (v : VBit) (a b : Reg) (im : BitVec 15)
  | lduhI (v : VBit) (a b : Reg) (im : BitVec 15)
  | ldeaI (v : VBit) (a b : Reg) (im : BitVec 15)
  | andI (v : VBit) (a b : Reg) (im : BitVec 15)
  | orI (v : VBit) (a b : Reg) (im : BitVec 15)
  | xorI (v : VBit) (a b : Reg) (im : BitVec 15)
  | ebfI (v : VBit) (a b : Reg) (im : BitVec 15)
  | ebfuI (v : VBit) (a b : Reg) (im : BitVec 15)
  | mkbfI (v : VBit) (a b : Reg) (im : BitVec 15)
  | addI (v : VBit) (a b : Reg) (im : BitVec 15)
  | subI (v : VBit) (a b : Reg) (im : BitVec 15)
  | minI (v : VBit) (a b : Reg) (im : BitVec 15)
  | maxI (v : VBit) (a b : Reg) (im : BitVec 15)
  | minuI (v : VBit) (a b : Reg) (im : BitVec 15)
  | maxuI (v : VBit) (a b : Reg) (im : BitVec 15)
  | seqI (v : VBit) (a b : Reg) (im : BitVec 15)
  | sneI (v : VBit) (a b : Reg) (im : BitVec 15)
  | sltI (v : VBit) (a b : Reg) (im : BitVec 15)
  | sltuI (v : VBit) (a b : Reg) (im : BitVec 15)
  | sleI (v : VBit) (a b : Reg) (im : BitVec 15)
  | sleuI (v : VBit) (a b : Reg) (im : BitVec 15)
  | shufI (v : VBit) (a b : Reg) (im : BitVec 15)
  | xchgsrI (a b : Reg) (im : BitVec 15)
  | mulI (v : VBit) (a b : Reg) (im : BitVec 15)
  | divI (v : VBit) (a b : Reg) (im : BitVec 15)
  | divuI (v : VBit) (a b : Reg) (im : BitVec 15)
  | remI (v : VBit) (a b : Reg) (im : BitVec 15)
  | remuI (v : VBit) (a b : Reg) (im : BitVec 15)
  | maddI (v : VBit) (a b : Reg) (im : BitVec 15)
  | selI (v : VBit) (a b : Reg) (im : BitVec 15)
  | ibfI (v : VBit) (a b : Reg) (im : BitVec 15)
  -- Format D: one register operand and a 21-bit immediate (R91).
  | j (a : Reg) (im : BitVec 21)
  | jl (a : Reg) (im : BitVec 21)
  | ldwpc (a : Reg) (im : BitVec 21)
  | stwpc (a : Reg) (im : BitVec 21)
  | addpc (a : Reg) (im : BitVec 21)
  | addpchi (a : Reg) (im : BitVec 21)
  | ldi (a : Reg) (im : BitVec 21)
  -- Format E: the conditional branches (R92).
  | bz (a : Reg) (im : BitVec 18)
  | bnz (a : Reg) (im : BitVec 18)
  | bs (a : Reg) (im : BitVec 18)
  | bns (a : Reg) (im : BitVec 18)
  | bltz (a : Reg) (im : BitVec 18)
  | bgez (a : Reg) (im : BitVec 18)
  | blez (a : Reg) (im : BitVec 18)
  | bgtz (a : Reg) (im : BitVec 18)
  deriving DecidableEq, Repr

end Sys2Proof
end

