-- ==== Sys2Proof/WellFormed.lean ====
section
/-! DEFINITION. Which instruction terms are instructions: the (V, T) combinations of R93 that the types of Syntax
do not already rule out. -/

namespace Sys2Proof

/-- V = 01 is reserved in load/store instructions (R74, R97). -/
def VMode.loadStoreOk (v : VMode) : Bool := v != .fold

/-- FPACK, FUNPL and FUNPH have no `.B` variant (R93, R297, R299). -/
def Packing.floatPackOk (t : Packing) : Bool := t != .byte

/-- The term is in its instruction's Variants table (R93). Every constructor is named. -/
def Instr.wellFormed (i : Instr) : Bool :=
  match i with
  | .clz _ _ _ _ => true
  | .ctz _ _ _ _ => true
  | .clo _ _ _ _ => true
  | .cto _ _ _ _ => true
  | .popcnt _ _ _ _ => true
  | .rev _ _ _ _ => true
  | .funpl _ t _ _ => t.floatPackOk
  | .funph _ t _ _ => t.floatPackOk
  | .wait => true
  | .sync => true
  | .cctrl _ _ => true
  | .crc32c _ _ _ _ => true
  | .crc32 _ _ _ _ => true
  | .stb v _ _ _ _ => v.loadStoreOk
  | .sth v _ _ _ _ => v.loadStoreOk
  | .stw v _ _ _ _ => v.loadStoreOk
  | .ldb v _ _ _ _ => v.loadStoreOk
  | .ldh v _ _ _ _ => v.loadStoreOk
  | .ldw v _ _ _ _ => v.loadStoreOk
  | .ldub v _ _ _ _ => v.loadStoreOk
  | .lduh v _ _ _ _ => v.loadStoreOk
  | .ldea v _ _ _ _ => v.loadStoreOk
  | .and _ _ _ _ _ => true
  | .or _ _ _ _ _ => true
  | .xor _ _ _ _ _ => true
  | .ebf _ _ _ _ _ => true
  | .ebfu _ _ _ _ _ => true
  | .mkbf _ _ _ _ _ => true
  | .add _ _ _ _ _ => true
  | .sub _ _ _ _ _ => true
  | .min _ _ _ _ _ => true
  | .max _ _ _ _ _ => true
  | .minu _ _ _ _ _ => true
  | .maxu _ _ _ _ _ => true
  | .seq _ _ _ _ _ => true
  | .sne _ _ _ _ _ => true
  | .slt _ _ _ _ _ => true
  | .sltu _ _ _ _ _ => true
  | .sle _ _ _ _ _ => true
  | .sleu _ _ _ _ _ => true
  | .shuf _ _ _ _ => true
  | .xchgsr _ _ _ => true
  | .mul _ _ _ _ _ => true
  | .div _ _ _ _ _ => true
  | .divu _ _ _ _ _ => true
  | .rem _ _ _ _ _ => true
  | .remu _ _ _ _ _ => true
  | .madd _ _ _ _ _ => true
  | .sel _ _ _ _ _ => true
  | .ibf _ _ _ _ _ => true
  | .mulhi _ _ _ _ _ => true
  | .mulhiu _ _ _ _ _ => true
  | .mulq _ _ _ _ _ => true
  | .mulqr _ _ _ _ _ => true
  | .pack _ _ _ _ _ => true
  | .packs _ _ _ _ _ => true
  | .packsu _ _ _ _ _ => true
  | .packhi _ _ _ _ _ => true
  | .packhir _ _ _ _ _ => true
  | .packhiur _ _ _ _ _ => true
  | .fmin _ _ _ _ _ => true
  | .fmax _ _ _ _ _ => true
  | .fseq _ _ _ _ _ => true
  | .fsne _ _ _ _ _ => true
  | .fslt _ _ _ _ _ => true
  | .fsle _ _ _ _ _ => true
  | .fsunord _ _ _ _ _ => true
  | .fsord _ _ _ _ _ => true
  | .itof _ _ _ _ _ => true
  | .utof _ _ _ _ _ => true
  | .ftoi _ _ _ _ _ => true
  | .ftou _ _ _ _ _ => true
  | .ftoir _ _ _ _ _ => true
  | .ftour _ _ _ _ _ => true
  | .fpack _ t _ _ _ => t.floatPackOk
  | .fadd _ _ _ _ _ => true
  | .fsub _ _ _ _ _ => true
  | .fmul _ _ _ _ _ => true
  | .fdiv _ _ _ _ _ => true
  | .adds _ _ _ _ _ => true
  | .addsu _ _ _ _ _ => true
  | .addh _ _ _ _ _ => true
  | .addhu _ _ _ _ _ => true
  | .addhr _ _ _ _ _ => true
  | .addhur _ _ _ _ _ => true
  | .subs _ _ _ _ _ => true
  | .subsu _ _ _ _ _ => true
  | .subh _ _ _ _ _ => true
  | .subhu _ _ _ _ _ => true
  | .subhr _ _ _ _ _ => true
  | .subhur _ _ _ _ _ => true
  | .stbI _ _ _ _ => true
  | .sthI _ _ _ _ => true
  | .stwI _ _ _ _ => true
  | .ldbI _ _ _ _ => true
  | .ldhI _ _ _ _ => true
  | .ldwI _ _ _ _ => true
  | .ldubI _ _ _ _ => true
  | .lduhI _ _ _ _ => true
  | .ldeaI _ _ _ _ => true
  | .andI _ _ _ _ => true
  | .orI _ _ _ _ => true
  | .xorI _ _ _ _ => true
  | .ebfI _ _ _ _ => true
  | .ebfuI _ _ _ _ => true
  | .mkbfI _ _ _ _ => true
  | .addI _ _ _ _ => true
  | .subI _ _ _ _ => true
  | .minI _ _ _ _ => true
  | .maxI _ _ _ _ => true
  | .minuI _ _ _ _ => true
  | .maxuI _ _ _ _ => true
  | .seqI _ _ _ _ => true
  | .sneI _ _ _ _ => true
  | .sltI _ _ _ _ => true
  | .sltuI _ _ _ _ => true
  | .sleI _ _ _ _ => true
  | .sleuI _ _ _ _ => true
  | .shufI _ _ _ _ => true
  | .xchgsrI _ _ _ => true
  | .mulI _ _ _ _ => true
  | .divI _ _ _ _ => true
  | .divuI _ _ _ _ => true
  | .remI _ _ _ _ => true
  | .remuI _ _ _ _ => true
  | .maddI _ _ _ _ => true
  | .selI _ _ _ _ => true
  | .ibfI _ _ _ _ => true
  | .j _ _ => true
  | .jl _ _ => true
  | .ldwpc _ _ => true
  | .stwpc _ _ => true
  | .addpc _ _ => true
  | .addpchi _ _ => true
  | .ldi _ _ => true
  | .bz _ _ => true
  | .bnz _ _ => true
  | .bs _ _ => true
  | .bns _ _ => true
  | .bltz _ _ => true
  | .bgez _ _ => true
  | .blez _ _ => true
  | .bgtz _ _ => true

end Sys2Proof
end

