-- ==== Sys2Proof/Decode.lean ====
section
/-! DEFINITION. The decoder, total on any word and any bytes and rejecting by name (R70 to R97), and after it the
encoder, written from the same layouts (R71). -/

namespace Sys2Proof

/-- The five instruction formats (R70). -/
inductive Format
  | a
  | b
  | c
  | d
  | e
  deriving DecidableEq, Repr

/-- Why a word is not an instruction. Every one of them raises IllegalInstruction when the word is executed (R97). -/
inductive DecodeError
  /-- IW bits 31:29 are 111 (R95). -/
  | reservedPrefix
  /-- The (format, OP) pair is not assigned (R96). -/
  | vacant (f : Format) (op : Nat)
  /-- A V value outside the instruction's variants: V = 01 in a load/store instruction (R97). -/
  | reservedV
  /-- A T value outside the instruction's variants (R97). -/
  | reservedT
  /-- A reserved bit of the instruction is 1 (R86). -/
  | reservedBits
  /-- Fewer than the four bytes of an instruction (R70). -/
  | truncated
  deriving DecidableEq, Repr

/-! ### The two-bit and one-bit fields -/

def VMode.bits : VMode → BitVec 2
  | .scalar => 0b00#2
  | .vecScalar => 0b10#2
  | .vecVec => 0b11#2
  | .fold => 0b01#2

def VMode.ofBits (x : BitVec 2) : VMode :=
  if x = 0b00#2 then .scalar else if x = 0b10#2 then .vecScalar else if x = 0b11#2 then .vecVec else .fold

def VBit.bits : VBit → BitVec 1
  | .scalar => 0#1
  | .vector => 1#1

def VBit.ofBits (x : BitVec 1) : VBit := if x = 0#1 then .scalar else .vector

def Packing.bits : Packing → BitVec 2
  | .word => 0b00#2
  | .byte => 0b01#2
  | .half => 0b10#2

/-- T = 11 is reserved where T is a packed data type (R75). -/
def Packing.ofBits? (x : BitVec 2) : Option Packing :=
  if x = 0b00#2 then some .word else if x = 0b01#2 then some .byte else if x = 0b10#2 then some .half else none

def Scale.bits : Scale → BitVec 2
  | .x1 => 0b00#2
  | .x2 => 0b01#2
  | .x4 => 0b10#2
  | .x8 => 0b11#2

def Scale.ofBits (x : BitVec 2) : Scale :=
  if x = 0b00#2 then .x1 else if x = 0b01#2 then .x2 else if x = 0b10#2 then .x4 else .x8

def Negate.bits : Negate → BitVec 2
  | .pp => 0b00#2
  | .pn => 0b01#2
  | .np => 0b10#2
  | .nn => 0b11#2

def Negate.ofBits (x : BitVec 2) : Negate :=
  if x = 0b00#2 then .pp else if x = 0b01#2 then .pn else if x = 0b10#2 then .np else .nn

def SelPerm.bits : SelPerm → BitVec 2
  | .p123 => 0b00#2
  | .p132 => 0b01#2
  | .p213 => 0b10#2
  | .p231 => 0b11#2

def SelPerm.ofBits (x : BitVec 2) : SelPerm :=
  if x = 0b00#2 then .p123 else if x = 0b01#2 then .p132 else if x = 0b10#2 then .p213 else .p231

def CrcWidth.bits : CrcWidth → BitVec 2
  | .w8 => 0b00#2
  | .w16 => 0b01#2
  | .w32 => 0b10#2

/-- T = 11 is reserved in CRC32C and CRC32 (R244). -/
def CrcWidth.ofBits? (x : BitVec 2) : Option CrcWidth :=
  if x = 0b00#2 then some .w8 else if x = 0b01#2 then some .w16 else if x = 0b10#2 then some .w32 else none

/-! ### Checks shared by the rows -/

/-- The row's T is a packed data type. -/
def withPacking (t : BitVec 2) (k : Packing → Instr) : Except DecodeError Instr :=
  match Packing.ofBits? t with
  | some p => .ok (k p)
  | none => .error .reservedT

/-- The row's T is a packed data type without the byte variant (FPACK, FUNPL, FUNPH; R93). -/
def withFloatPacking (t : BitVec 2) (k : Packing → Instr) : Except DecodeError Instr :=
  match Packing.ofBits? t with
  | some p => if p.floatPackOk then .ok (k p) else .error .reservedT
  | none => .error .reservedT

/-- The row's T is a CRC width. -/
def withCrcWidth (t : BitVec 2) (k : CrcWidth → Instr) : Except DecodeError Instr :=
  match CrcWidth.ofBits? t with
  | some p => .ok (k p)
  | none => .error .reservedT

/-- The row is a load/store instruction: V = 01 is reserved (R74). -/
def withLoadStoreV (v : BitVec 2) (k : VMode → Instr) : Except DecodeError Instr :=
  if (VMode.ofBits v).loadStoreOk then .ok (k (VMode.ofBits v)) else .error .reservedV

/-- The row has reserved bits, which must be zero (R86). -/
def withZero (zero : Bool) (i : Instr) : Except DecodeError Instr :=
  if zero then .ok i else .error .reservedBits

/-! ### The opcode map (R88 to R92) -/

/-- Format A by OP (R88); `v` is the one-bit V. -/
def decodeA (op : BitVec 10) (v : BitVec 1) (t : BitVec 2) (a b : Reg) : Except DecodeError Instr :=
  match op.toNat with
  | 0 => withPacking t fun t => .clz (VBit.ofBits v) t a b
  | 1 => withPacking t fun t => .ctz (VBit.ofBits v) t a b
  | 2 => withPacking t fun t => .clo (VBit.ofBits v) t a b
  | 3 => withPacking t fun t => .cto (VBit.ofBits v) t a b
  | 4 => withPacking t fun t => .popcnt (VBit.ofBits v) t a b
  | 5 => withPacking t fun t => .rev (VBit.ofBits v) t a b
  | 64 => withFloatPacking t fun t => .funpl (VBit.ofBits v) t a b
  | 65 => withFloatPacking t fun t => .funph (VBit.ofBits v) t a b
  | 128 => withZero (a == 0#5 && b == 0#5 && v == 0#1 && t == 0#2) .wait
  | 129 => withZero (a == 0#5 && b == 0#5 && v == 0#1 && t == 0#2) .sync
  | 130 => withZero (v == 0#1 && t == 0#2) (.cctrl a b)
  | 136 => withCrcWidth t fun t => .crc32c (VBit.ofBits v) t a b
  | 137 => withCrcWidth t fun t => .crc32 (VBit.ofBits v) t a b
  | n => .error (.vacant .a n)

/-- Format B by OP (R89). -/
def decodeB (op : BitVec 9) (v t : BitVec 2) (a b c : Reg) : Except DecodeError Instr :=
  match op.toNat with
  | 4 => withLoadStoreV v fun v => .stb v (Scale.ofBits t) a b c
  | 5 => withLoadStoreV v fun v => .sth v (Scale.ofBits t) a b c
  | 6 => withLoadStoreV v fun v => .stw v (Scale.ofBits t) a b c
  | 8 => withLoadStoreV v fun v => .ldb v (Scale.ofBits t) a b c
  | 9 => withLoadStoreV v fun v => .ldh v (Scale.ofBits t) a b c
  | 10 => withLoadStoreV v fun v => .ldw v (Scale.ofBits t) a b c
  | 12 => withLoadStoreV v fun v => .ldub v (Scale.ofBits t) a b c
  | 13 => withLoadStoreV v fun v => .lduh v (Scale.ofBits t) a b c
  | 15 => withLoadStoreV v fun v => .ldea v (Scale.ofBits t) a b c
  | 16 => .ok (.and (VMode.ofBits v) (Negate.ofBits t) a b c)
  | 17 => .ok (.or (VMode.ofBits v) (Negate.ofBits t) a b c)
  | 18 => .ok (.xor (VMode.ofBits v) (Negate.ofBits t) a b c)
  | 19 => withPacking t fun t => .ebf (VMode.ofBits v) t a b c
  | 20 => withPacking t fun t => .ebfu (VMode.ofBits v) t a b c
  | 21 => withPacking t fun t => .mkbf (VMode.ofBits v) t a b c
  | 22 => withPacking t fun t => .add (VMode.ofBits v) t a b c
  | 23 => withPacking t fun t => .sub (VMode.ofBits v) t a b c
  | 24 => withPacking t fun t => .min (VMode.ofBits v) t a b c
  | 25 => withPacking t fun t => .max (VMode.ofBits v) t a b c
  | 26 => withPacking t fun t => .minu (VMode.ofBits v) t a b c
  | 27 => withPacking t fun t => .maxu (VMode.ofBits v) t a b c
  | 28 => withPacking t fun t => .seq (VMode.ofBits v) t a b c
  | 29 => withPacking t fun t => .sne (VMode.ofBits v) t a b c
  | 30 => withPacking t fun t => .slt (VMode.ofBits v) t a b c
  | 31 => withPacking t fun t => .sltu (VMode.ofBits v) t a b c
  | 32 => withPacking t fun t => .sle (VMode.ofBits v) t a b c
  | 33 => withPacking t fun t => .sleu (VMode.ofBits v) t a b c
  | 34 => withZero (t == 0#2) (.shuf (VMode.ofBits v) a b c)
  | 36 => withZero (v == 0#2 && t == 0#2) (.xchgsr a b c)
  | 39 => withPacking t fun t => .mul (VMode.ofBits v) t a b c
  | 40 => withPacking t fun t => .div (VMode.ofBits v) t a b c
  | 41 => withPacking t fun t => .divu (VMode.ofBits v) t a b c
  | 42 => withPacking t fun t => .rem (VMode.ofBits v) t a b c
  | 43 => withPacking t fun t => .remu (VMode.ofBits v) t a b c
  | 44 => withPacking t fun t => .madd (VMode.ofBits v) t a b c
  | 46 => .ok (.sel (VMode.ofBits v) (SelPerm.ofBits t) a b c)
  | 47 => withPacking t fun t => .ibf (VMode.ofBits v) t a b c
  | 48 => withPacking t fun t => .mulhi (VMode.ofBits v) t a b c
  | 49 => withPacking t fun t => .mulhiu (VMode.ofBits v) t a b c
  | 50 => withPacking t fun t => .mulq (VMode.ofBits v) t a b c
  | 51 => withPacking t fun t => .mulqr (VMode.ofBits v) t a b c
  | 58 => withPacking t fun t => .pack (VMode.ofBits v) t a b c
  | 59 => withPacking t fun t => .packs (VMode.ofBits v) t a b c
  | 60 => withPacking t fun t => .packsu (VMode.ofBits v) t a b c
  | 61 => withPacking t fun t => .packhi (VMode.ofBits v) t a b c
  | 62 => withPacking t fun t => .packhir (VMode.ofBits v) t a b c
  | 63 => withPacking t fun t => .packhiur (VMode.ofBits v) t a b c
  | 64 => withPacking t fun t => .fmin (VMode.ofBits v) t a b c
  | 65 => withPacking t fun t => .fmax (VMode.ofBits v) t a b c
  | 66 => withPacking t fun t => .fseq (VMode.ofBits v) t a b c
  | 67 => withPacking t fun t => .fsne (VMode.ofBits v) t a b c
  | 68 => withPacking t fun t => .fslt (VMode.ofBits v) t a b c
  | 69 => withPacking t fun t => .fsle (VMode.ofBits v) t a b c
  | 70 => withPacking t fun t => .fsunord (VMode.ofBits v) t a b c
  | 71 => withPacking t fun t => .fsord (VMode.ofBits v) t a b c
  | 72 => withPacking t fun t => .itof (VMode.ofBits v) t a b c
  | 73 => withPacking t fun t => .utof (VMode.ofBits v) t a b c
  | 74 => withPacking t fun t => .ftoi (VMode.ofBits v) t a b c
  | 75 => withPacking t fun t => .ftou (VMode.ofBits v) t a b c
  | 76 => withPacking t fun t => .ftoir (VMode.ofBits v) t a b c
  | 77 => withPacking t fun t => .ftour (VMode.ofBits v) t a b c
  | 78 => withFloatPacking t fun t => .fpack (VMode.ofBits v) t a b c
  | 80 => withPacking t fun t => .fadd (VMode.ofBits v) t a b c
  | 81 => withPacking t fun t => .fsub (VMode.ofBits v) t a b c
  | 82 => withPacking t fun t => .fmul (VMode.ofBits v) t a b c
  | 83 => withPacking t fun t => .fdiv (VMode.ofBits v) t a b c
  | 96 => withPacking t fun t => .adds (VMode.ofBits v) t a b c
  | 97 => withPacking t fun t => .addsu (VMode.ofBits v) t a b c
  | 98 => withPacking t fun t => .addh (VMode.ofBits v) t a b c
  | 99 => withPacking t fun t => .addhu (VMode.ofBits v) t a b c
  | 100 => withPacking t fun t => .addhr (VMode.ofBits v) t a b c
  | 101 => withPacking t fun t => .addhur (VMode.ofBits v) t a b c
  | 102 => withPacking t fun t => .subs (VMode.ofBits v) t a b c
  | 103 => withPacking t fun t => .subsu (VMode.ofBits v) t a b c
  | 104 => withPacking t fun t => .subh (VMode.ofBits v) t a b c
  | 105 => withPacking t fun t => .subhu (VMode.ofBits v) t a b c
  | 106 => withPacking t fun t => .subhr (VMode.ofBits v) t a b c
  | 107 => withPacking t fun t => .subhur (VMode.ofBits v) t a b c
  | n => .error (.vacant .b n)

/-- Format C by OP (R90); `v` is the one-bit V. -/
def decodeC (op : BitVec 6) (v : BitVec 1) (a b : Reg) (im : BitVec 15) : Except DecodeError Instr :=
  match op.toNat with
  | 4 => .ok (.stbI (VBit.ofBits v) a b im)
  | 5 => .ok (.sthI (VBit.ofBits v) a b im)
  | 6 => .ok (.stwI (VBit.ofBits v) a b im)
  | 8 => .ok (.ldbI (VBit.ofBits v) a b im)
  | 9 => .ok (.ldhI (VBit.ofBits v) a b im)
  | 10 => .ok (.ldwI (VBit.ofBits v) a b im)
  | 12 => .ok (.ldubI (VBit.ofBits v) a b im)
  | 13 => .ok (.lduhI (VBit.ofBits v) a b im)
  | 15 => .ok (.ldeaI (VBit.ofBits v) a b im)
  | 16 => .ok (.andI (VBit.ofBits v) a b im)
  | 17 => .ok (.orI (VBit.ofBits v) a b im)
  | 18 => .ok (.xorI (VBit.ofBits v) a b im)
  | 19 => .ok (.ebfI (VBit.ofBits v) a b im)
  | 20 => .ok (.ebfuI (VBit.ofBits v) a b im)
  | 21 => .ok (.mkbfI (VBit.ofBits v) a b im)
  | 22 => .ok (.addI (VBit.ofBits v) a b im)
  | 23 => .ok (.subI (VBit.ofBits v) a b im)
  | 24 => .ok (.minI (VBit.ofBits v) a b im)
  | 25 => .ok (.maxI (VBit.ofBits v) a b im)
  | 26 => .ok (.minuI (VBit.ofBits v) a b im)
  | 27 => .ok (.maxuI (VBit.ofBits v) a b im)
  | 28 => .ok (.seqI (VBit.ofBits v) a b im)
  | 29 => .ok (.sneI (VBit.ofBits v) a b im)
  | 30 => .ok (.sltI (VBit.ofBits v) a b im)
  | 31 => .ok (.sltuI (VBit.ofBits v) a b im)
  | 32 => .ok (.sleI (VBit.ofBits v) a b im)
  | 33 => .ok (.sleuI (VBit.ofBits v) a b im)
  | 34 => .ok (.shufI (VBit.ofBits v) a b im)
  | 36 => withZero (v == 0#1) (.xchgsrI a b im)
  | 39 => .ok (.mulI (VBit.ofBits v) a b im)
  | 40 => .ok (.divI (VBit.ofBits v) a b im)
  | 41 => .ok (.divuI (VBit.ofBits v) a b im)
  | 42 => .ok (.remI (VBit.ofBits v) a b im)
  | 43 => .ok (.remuI (VBit.ofBits v) a b im)
  | 44 => .ok (.maddI (VBit.ofBits v) a b im)
  | 46 => .ok (.selI (VBit.ofBits v) a b im)
  | 47 => .ok (.ibfI (VBit.ofBits v) a b im)
  | n => .error (.vacant .c n)

/-- Format D by OP (R91). OP 7 is the prefix of format E. -/
def decodeD (op : BitVec 3) (a : Reg) (im : BitVec 21) : Except DecodeError Instr :=
  match op.toNat with
  | 0 => .ok (.j a im)
  | 1 => .ok (.jl a im)
  | 2 => .ok (.ldwpc a im)
  | 3 => .ok (.stwpc a im)
  | 4 => .ok (.addpc a im)
  | 5 => .ok (.addpchi a im)
  | 6 => .ok (.ldi a im)
  | n => .error (.vacant .d n)

/-- Format E by OP (R92). -/
def decodeE (op : BitVec 3) (a : Reg) (im : BitVec 18) : Except DecodeError Instr :=
  match op.toNat with
  | 0 => .ok (.bz a im)
  | 1 => .ok (.bnz a im)
  | 2 => .ok (.bs a im)
  | 3 => .ok (.bns a im)
  | 4 => .ok (.bltz a im)
  | 5 => .ok (.bgez a im)
  | 6 => .ok (.blez a im)
  | 7 => .ok (.bgtz a im)
  | n => .error (.vacant .e n)

/-- The format of a word (R84): the tests in the order of the decode procedure; none for the reserved prefix. -/
def formatOf (iw : Word) : Option Format :=
  if iw.extractLsb' 29 3 = 0b111#3 then none
  else if iw.extractLsb' 26 6 = 0b110111#6 then some .e
  else if iw.extractLsb' 29 3 = 0b110#3 then some .d
  else if iw.extractLsb' 28 4 = 0#4 then
    if iw.extractLsb' 2 5 = 0#5 then some .a else some .b
  else some .c

/-- Decode one instruction word (R84), taking the fields from the positions of R71 and R73. -/
def decodeWord (iw : Word) : Except DecodeError Instr :=
  match formatOf iw with
  | none => .error .reservedPrefix
  | some .a =>
    decodeA (iw.extractLsb' 26 2 ++ iw.extractLsb' 9 6 ++ iw.extractLsb' 0 2) (iw.extractLsb' 15 1)
      (iw.extractLsb' 7 2) (iw.extractLsb' 21 5) (iw.extractLsb' 16 5)
  | some .b =>
    decodeB (iw.extractLsb' 26 2 ++ iw.extractLsb' 0 7) (iw.extractLsb' 14 2) (iw.extractLsb' 7 2)
      (iw.extractLsb' 21 5) (iw.extractLsb' 16 5) (iw.extractLsb' 9 5)
  | some .c =>
    decodeC (iw.extractLsb' 26 6) (iw.extractLsb' 15 1) (iw.extractLsb' 21 5) (iw.extractLsb' 16 5)
      (iw.extractLsb' 0 15)
  | some .d => decodeD (iw.extractLsb' 26 3) (iw.extractLsb' 21 5) (iw.extractLsb' 0 21)
  | some .e => decodeE (iw.extractLsb' 18 3) (iw.extractLsb' 21 5) (iw.extractLsb' 0 18)

/-- The word made of four bytes in memory order, the first least significant (R41, R44). -/
def wordOfBytes (b0 b1 b2 b3 : Byte) : Word := b3 ++ b2 ++ b1 ++ b0

/-- The four bytes of a word in memory order, the first least significant (R42). -/
def bytesOfWord (w : Word) : List Byte :=
  [w.extractLsb' 0 8, w.extractLsb' 8 8, w.extractLsb' 16 8, w.extractLsb' 24 8]

/-- Decode the first instruction of a list of bytes in memory order, and give back the bytes after it. -/
def decodeBytes : List Byte → Except DecodeError (Instr × List Byte)
  | b0 :: b1 :: b2 :: b3 :: rest =>
    match decodeWord (wordOfBytes b0 b1 b2 b3) with
    | .ok i => .ok (i, rest)
    | .error e => .error e
  | _ => .error .truncated

/-- The instruction the decoder reads from an instruction whose bits are `w`, numbered as spec/opcode_table.json
numbers them: every row has one 32-bit word, of which the bits from `nbits` on are zero. -/
def decodeTableWord (nbits w : Nat) : Option Instr :=
  match decodeBytes (bytesOfWord (BitVec.ofNat 32 (w % 2 ^ nbits))) with
  | .ok (i, _) => some i
  | .error _ => none

/-! ### The encoder -/

/-- Format A (R71): OP is in IW bits 27:26, 14:9 and 1:0. -/
def fmtA (op : BitVec 10) (v : BitVec 1) (t : BitVec 2) (a b : Reg) : Word :=
  0#4 ++ op.extractLsb' 8 2 ++ a ++ b ++ v ++ op.extractLsb' 2 6 ++ t ++ 0#5 ++ op.extractLsb' 0 2

/-- Format B (R71): OP is in IW bits 27:26 and 6:0. -/
def fmtB (op : BitVec 9) (v t : BitVec 2) (a b c : Reg) : Word :=
  0#4 ++ op.extractLsb' 7 2 ++ a ++ b ++ v ++ c ++ t ++ op.extractLsb' 0 7

/-- Format C (R71). -/
def fmtC (op : BitVec 6) (v : BitVec 1) (a b : Reg) (im : BitVec 15) : Word := op ++ a ++ b ++ v ++ im

/-- Format D (R71). -/
def fmtD (op : BitVec 3) (a : Reg) (im : BitVec 21) : Word := 0b110#3 ++ op ++ a ++ im

/-- Format E (R71). -/
def fmtE (op : BitVec 3) (a : Reg) (im : BitVec 18) : Word := 0b110111#6 ++ a ++ op ++ im

/-- The word of an instruction. On a term that is not well-formed it is the word with that reserved field value. -/
def encode (i : Instr) : Word :=
  match i with
  | .clz v t a b => fmtA 0#10 v.bits t.bits a b
  | .ctz v t a b => fmtA 1#10 v.bits t.bits a b
  | .clo v t a b => fmtA 2#10 v.bits t.bits a b
  | .cto v t a b => fmtA 3#10 v.bits t.bits a b
  | .popcnt v t a b => fmtA 4#10 v.bits t.bits a b
  | .rev v t a b => fmtA 5#10 v.bits t.bits a b
  | .funpl v t a b => fmtA 64#10 v.bits t.bits a b
  | .funph v t a b => fmtA 65#10 v.bits t.bits a b
  | .wait => fmtA 128#10 0#1 0#2 0#5 0#5
  | .sync => fmtA 129#10 0#1 0#2 0#5 0#5
  | .cctrl a b => fmtA 130#10 0#1 0#2 a b
  | .crc32c v t a b => fmtA 136#10 v.bits t.bits a b
  | .crc32 v t a b => fmtA 137#10 v.bits t.bits a b
  | .stb v t a b c => fmtB 4#9 v.bits t.bits a b c
  | .sth v t a b c => fmtB 5#9 v.bits t.bits a b c
  | .stw v t a b c => fmtB 6#9 v.bits t.bits a b c
  | .ldb v t a b c => fmtB 8#9 v.bits t.bits a b c
  | .ldh v t a b c => fmtB 9#9 v.bits t.bits a b c
  | .ldw v t a b c => fmtB 10#9 v.bits t.bits a b c
  | .ldub v t a b c => fmtB 12#9 v.bits t.bits a b c
  | .lduh v t a b c => fmtB 13#9 v.bits t.bits a b c
  | .ldea v t a b c => fmtB 15#9 v.bits t.bits a b c
  | .and v t a b c => fmtB 16#9 v.bits t.bits a b c
  | .or v t a b c => fmtB 17#9 v.bits t.bits a b c
  | .xor v t a b c => fmtB 18#9 v.bits t.bits a b c
  | .ebf v t a b c => fmtB 19#9 v.bits t.bits a b c
  | .ebfu v t a b c => fmtB 20#9 v.bits t.bits a b c
  | .mkbf v t a b c => fmtB 21#9 v.bits t.bits a b c
  | .add v t a b c => fmtB 22#9 v.bits t.bits a b c
  | .sub v t a b c => fmtB 23#9 v.bits t.bits a b c
  | .min v t a b c => fmtB 24#9 v.bits t.bits a b c
  | .max v t a b c => fmtB 25#9 v.bits t.bits a b c
  | .minu v t a b c => fmtB 26#9 v.bits t.bits a b c
  | .maxu v t a b c => fmtB 27#9 v.bits t.bits a b c
  | .seq v t a b c => fmtB 28#9 v.bits t.bits a b c
  | .sne v t a b c => fmtB 29#9 v.bits t.bits a b c
  | .slt v t a b c => fmtB 30#9 v.bits t.bits a b c
  | .sltu v t a b c => fmtB 31#9 v.bits t.bits a b c
  | .sle v t a b c => fmtB 32#9 v.bits t.bits a b c
  | .sleu v t a b c => fmtB 33#9 v.bits t.bits a b c
  | .shuf v a b c => fmtB 34#9 v.bits 0#2 a b c
  | .xchgsr a b c => fmtB 36#9 0#2 0#2 a b c
  | .mul v t a b c => fmtB 39#9 v.bits t.bits a b c
  | .div v t a b c => fmtB 40#9 v.bits t.bits a b c
  | .divu v t a b c => fmtB 41#9 v.bits t.bits a b c
  | .rem v t a b c => fmtB 42#9 v.bits t.bits a b c
  | .remu v t a b c => fmtB 43#9 v.bits t.bits a b c
  | .madd v t a b c => fmtB 44#9 v.bits t.bits a b c
  | .sel v t a b c => fmtB 46#9 v.bits t.bits a b c
  | .ibf v t a b c => fmtB 47#9 v.bits t.bits a b c
  | .mulhi v t a b c => fmtB 48#9 v.bits t.bits a b c
  | .mulhiu v t a b c => fmtB 49#9 v.bits t.bits a b c
  | .mulq v t a b c => fmtB 50#9 v.bits t.bits a b c
  | .mulqr v t a b c => fmtB 51#9 v.bits t.bits a b c
  | .pack v t a b c => fmtB 58#9 v.bits t.bits a b c
  | .packs v t a b c => fmtB 59#9 v.bits t.bits a b c
  | .packsu v t a b c => fmtB 60#9 v.bits t.bits a b c
  | .packhi v t a b c => fmtB 61#9 v.bits t.bits a b c
  | .packhir v t a b c => fmtB 62#9 v.bits t.bits a b c
  | .packhiur v t a b c => fmtB 63#9 v.bits t.bits a b c
  | .fmin v t a b c => fmtB 64#9 v.bits t.bits a b c
  | .fmax v t a b c => fmtB 65#9 v.bits t.bits a b c
  | .fseq v t a b c => fmtB 66#9 v.bits t.bits a b c
  | .fsne v t a b c => fmtB 67#9 v.bits t.bits a b c
  | .fslt v t a b c => fmtB 68#9 v.bits t.bits a b c
  | .fsle v t a b c => fmtB 69#9 v.bits t.bits a b c
  | .fsunord v t a b c => fmtB 70#9 v.bits t.bits a b c
  | .fsord v t a b c => fmtB 71#9 v.bits t.bits a b c
  | .itof v t a b c => fmtB 72#9 v.bits t.bits a b c
  | .utof v t a b c => fmtB 73#9 v.bits t.bits a b c
  | .ftoi v t a b c => fmtB 74#9 v.bits t.bits a b c
  | .ftou v t a b c => fmtB 75#9 v.bits t.bits a b c
  | .ftoir v t a b c => fmtB 76#9 v.bits t.bits a b c
  | .ftour v t a b c => fmtB 77#9 v.bits t.bits a b c
  | .fpack v t a b c => fmtB 78#9 v.bits t.bits a b c
  | .fadd v t a b c => fmtB 80#9 v.bits t.bits a b c
  | .fsub v t a b c => fmtB 81#9 v.bits t.bits a b c
  | .fmul v t a b c => fmtB 82#9 v.bits t.bits a b c
  | .fdiv v t a b c => fmtB 83#9 v.bits t.bits a b c
  | .adds v t a b c => fmtB 96#9 v.bits t.bits a b c
  | .addsu v t a b c => fmtB 97#9 v.bits t.bits a b c
  | .addh v t a b c => fmtB 98#9 v.bits t.bits a b c
  | .addhu v t a b c => fmtB 99#9 v.bits t.bits a b c
  | .addhr v t a b c => fmtB 100#9 v.bits t.bits a b c
  | .addhur v t a b c => fmtB 101#9 v.bits t.bits a b c
  | .subs v t a b c => fmtB 102#9 v.bits t.bits a b c
  | .subsu v t a b c => fmtB 103#9 v.bits t.bits a b c
  | .subh v t a b c => fmtB 104#9 v.bits t.bits a b c
  | .subhu v t a b c => fmtB 105#9 v.bits t.bits a b c
  | .subhr v t a b c => fmtB 106#9 v.bits t.bits a b c
  | .subhur v t a b c => fmtB 107#9 v.bits t.bits a b c
  | .stbI v a b im => fmtC 4#6 v.bits a b im
  | .sthI v a b im => fmtC 5#6 v.bits a b im
  | .stwI v a b im => fmtC 6#6 v.bits a b im
  | .ldbI v a b im => fmtC 8#6 v.bits a b im
  | .ldhI v a b im => fmtC 9#6 v.bits a b im
  | .ldwI v a b im => fmtC 10#6 v.bits a b im
  | .ldubI v a b im => fmtC 12#6 v.bits a b im
  | .lduhI v a b im => fmtC 13#6 v.bits a b im
  | .ldeaI v a b im => fmtC 15#6 v.bits a b im
  | .andI v a b im => fmtC 16#6 v.bits a b im
  | .orI v a b im => fmtC 17#6 v.bits a b im
  | .xorI v a b im => fmtC 18#6 v.bits a b im
  | .ebfI v a b im => fmtC 19#6 v.bits a b im
  | .ebfuI v a b im => fmtC 20#6 v.bits a b im
  | .mkbfI v a b im => fmtC 21#6 v.bits a b im
  | .addI v a b im => fmtC 22#6 v.bits a b im
  | .subI v a b im => fmtC 23#6 v.bits a b im
  | .minI v a b im => fmtC 24#6 v.bits a b im
  | .maxI v a b im => fmtC 25#6 v.bits a b im
  | .minuI v a b im => fmtC 26#6 v.bits a b im
  | .maxuI v a b im => fmtC 27#6 v.bits a b im
  | .seqI v a b im => fmtC 28#6 v.bits a b im
  | .sneI v a b im => fmtC 29#6 v.bits a b im
  | .sltI v a b im => fmtC 30#6 v.bits a b im
  | .sltuI v a b im => fmtC 31#6 v.bits a b im
  | .sleI v a b im => fmtC 32#6 v.bits a b im
  | .sleuI v a b im => fmtC 33#6 v.bits a b im
  | .shufI v a b im => fmtC 34#6 v.bits a b im
  | .xchgsrI a b im => fmtC 36#6 0#1 a b im
  | .mulI v a b im => fmtC 39#6 v.bits a b im
  | .divI v a b im => fmtC 40#6 v.bits a b im
  | .divuI v a b im => fmtC 41#6 v.bits a b im
  | .remI v a b im => fmtC 42#6 v.bits a b im
  | .remuI v a b im => fmtC 43#6 v.bits a b im
  | .maddI v a b im => fmtC 44#6 v.bits a b im
  | .selI v a b im => fmtC 46#6 v.bits a b im
  | .ibfI v a b im => fmtC 47#6 v.bits a b im
  | .j a im => fmtD 0#3 a im
  | .jl a im => fmtD 1#3 a im
  | .ldwpc a im => fmtD 2#3 a im
  | .stwpc a im => fmtD 3#3 a im
  | .addpc a im => fmtD 4#3 a im
  | .addpchi a im => fmtD 5#3 a im
  | .ldi a im => fmtD 6#3 a im
  | .bz a im => fmtE 0#3 a im
  | .bnz a im => fmtE 1#3 a im
  | .bs a im => fmtE 2#3 a im
  | .bns a im => fmtE 3#3 a im
  | .bltz a im => fmtE 4#3 a im
  | .bgez a im => fmtE 5#3 a im
  | .blez a im => fmtE 6#3 a im
  | .bgtz a im => fmtE 7#3 a im

end Sys2Proof
end

