-- ==== Sys2Proof/Machine/Modules.lean ====
section
/-! DEFINITION. The architecture modules each instruction word needs (R88, R89, R133). -/

namespace Sys2Proof

/-- V other than 00 names a vector register and needs VM (R133 (2)). -/
def VMode.needs : VMode → List ArchModule
  | .scalar => []
  | .vecScalar => [.vm]
  | .vecVec => [.vm]
  | .fold => [.vm]

/-- A packed data type other than the word needs PM (R133 (3)). -/
def Packing.needs : Packing → List ArchModule
  | .word => []
  | .byte => [.pm]
  | .half => [.pm]

/-- The modules an instruction needs: those of its row's modules column, VM for a vector operand, PM for a packed
data type (R133). -/
def Instr.modules (i : Instr) : List ArchModule :=
  match i with
  | .clz v t _ _ => v.mode.needs ++ t.needs
  | .ctz v t _ _ => v.mode.needs ++ t.needs
  | .clo v t _ _ => v.mode.needs ++ t.needs
  | .cto v t _ _ => v.mode.needs ++ t.needs
  | .popcnt v t _ _ => v.mode.needs ++ t.needs
  | .rev v t _ _ => v.mode.needs ++ t.needs
  | .funpl v t _ _ => [.fm, .pm] ++ v.mode.needs ++ t.needs
  | .funph v t _ _ => [.fm, .pm] ++ v.mode.needs ++ t.needs
  | .wait => []
  | .sync => []
  | .cctrl _ _ => []
  | .crc32c v _ _ _ => v.mode.needs
  | .crc32 v _ _ _ => v.mode.needs
  | .stb v _ _ _ _ => v.needs
  | .sth v _ _ _ _ => v.needs
  | .stw v _ _ _ _ => v.needs
  | .ldb v _ _ _ _ => v.needs
  | .ldh v _ _ _ _ => v.needs
  | .ldw v _ _ _ _ => v.needs
  | .ldub v _ _ _ _ => v.needs
  | .lduh v _ _ _ _ => v.needs
  | .ldea v _ _ _ _ => v.needs
  | .and v _ _ _ _ => v.needs
  | .or v _ _ _ _ => v.needs
  | .xor v _ _ _ _ => v.needs
  | .ebf v t _ _ _ => v.needs ++ t.needs
  | .ebfu v t _ _ _ => v.needs ++ t.needs
  | .mkbf v t _ _ _ => v.needs ++ t.needs
  | .add v t _ _ _ => v.needs ++ t.needs
  | .sub v t _ _ _ => v.needs ++ t.needs
  | .min v t _ _ _ => v.needs ++ t.needs
  | .max v t _ _ _ => v.needs ++ t.needs
  | .minu v t _ _ _ => v.needs ++ t.needs
  | .maxu v t _ _ _ => v.needs ++ t.needs
  | .seq v t _ _ _ => v.needs ++ t.needs
  | .sne v t _ _ _ => v.needs ++ t.needs
  | .slt v t _ _ _ => v.needs ++ t.needs
  | .sltu v t _ _ _ => v.needs ++ t.needs
  | .sle v t _ _ _ => v.needs ++ t.needs
  | .sleu v t _ _ _ => v.needs ++ t.needs
  | .shuf v _ _ _ => v.needs
  | .xchgsr _ _ _ => []
  | .mul v t _ _ _ => v.needs ++ t.needs
  | .div v t _ _ _ => v.needs ++ t.needs
  | .divu v t _ _ _ => v.needs ++ t.needs
  | .rem v t _ _ _ => v.needs ++ t.needs
  | .remu v t _ _ _ => v.needs ++ t.needs
  | .madd v t _ _ _ => v.needs ++ t.needs
  | .sel v _ _ _ _ => v.needs
  | .ibf v t _ _ _ => v.needs ++ t.needs
  | .mulhi v t _ _ _ => v.needs ++ t.needs
  | .mulhiu v t _ _ _ => v.needs ++ t.needs
  | .mulq v t _ _ _ => [.sm] ++ v.needs ++ t.needs
  | .mulqr v t _ _ _ => [.sm] ++ v.needs ++ t.needs
  | .pack v t _ _ _ => [.pm] ++ v.needs ++ t.needs
  | .packs v t _ _ _ => [.pm, .sm] ++ v.needs ++ t.needs
  | .packsu v t _ _ _ => [.pm, .sm] ++ v.needs ++ t.needs
  | .packhi v t _ _ _ => [.pm] ++ v.needs ++ t.needs
  | .packhir v t _ _ _ => [.pm, .sm] ++ v.needs ++ t.needs
  | .packhiur v t _ _ _ => [.pm, .sm] ++ v.needs ++ t.needs
  | .fmin v t _ _ _ => [.fm] ++ v.needs ++ t.needs
  | .fmax v t _ _ _ => [.fm] ++ v.needs ++ t.needs
  | .fseq v t _ _ _ => [.fm] ++ v.needs ++ t.needs
  | .fsne v t _ _ _ => [.fm] ++ v.needs ++ t.needs
  | .fslt v t _ _ _ => [.fm] ++ v.needs ++ t.needs
  | .fsle v t _ _ _ => [.fm] ++ v.needs ++ t.needs
  | .fsunord v t _ _ _ => [.fm] ++ v.needs ++ t.needs
  | .fsord v t _ _ _ => [.fm] ++ v.needs ++ t.needs
  | .itof v t _ _ _ => [.fm] ++ v.needs ++ t.needs
  | .utof v t _ _ _ => [.fm] ++ v.needs ++ t.needs
  | .ftoi v t _ _ _ => [.fm] ++ v.needs ++ t.needs
  | .ftou v t _ _ _ => [.fm] ++ v.needs ++ t.needs
  | .ftoir v t _ _ _ => [.fm] ++ v.needs ++ t.needs
  | .ftour v t _ _ _ => [.fm] ++ v.needs ++ t.needs
  | .fpack v t _ _ _ => [.fm, .pm] ++ v.needs ++ t.needs
  | .fadd v t _ _ _ => [.fm] ++ v.needs ++ t.needs
  | .fsub v t _ _ _ => [.fm] ++ v.needs ++ t.needs
  | .fmul v t _ _ _ => [.fm] ++ v.needs ++ t.needs
  | .fdiv v t _ _ _ => [.fm] ++ v.needs ++ t.needs
  | .adds v t _ _ _ => [.sm] ++ v.needs ++ t.needs
  | .addsu v t _ _ _ => [.sm] ++ v.needs ++ t.needs
  | .addh v t _ _ _ => [.sm] ++ v.needs ++ t.needs
  | .addhu v t _ _ _ => [.sm] ++ v.needs ++ t.needs
  | .addhr v t _ _ _ => [.sm] ++ v.needs ++ t.needs
  | .addhur v t _ _ _ => [.sm] ++ v.needs ++ t.needs
  | .subs v t _ _ _ => [.sm] ++ v.needs ++ t.needs
  | .subsu v t _ _ _ => [.sm] ++ v.needs ++ t.needs
  | .subh v t _ _ _ => [.sm] ++ v.needs ++ t.needs
  | .subhu v t _ _ _ => [.sm] ++ v.needs ++ t.needs
  | .subhr v t _ _ _ => [.sm] ++ v.needs ++ t.needs
  | .subhur v t _ _ _ => [.sm] ++ v.needs ++ t.needs
  | .stbI v _ _ _ => v.mode.needs
  | .sthI v _ _ _ => v.mode.needs
  | .stwI v _ _ _ => v.mode.needs
  | .ldbI v _ _ _ => v.mode.needs
  | .ldhI v _ _ _ => v.mode.needs
  | .ldwI v _ _ _ => v.mode.needs
  | .ldubI v _ _ _ => v.mode.needs
  | .lduhI v _ _ _ => v.mode.needs
  | .ldeaI v _ _ _ => v.mode.needs
  | .andI v _ _ _ => v.mode.needs
  | .orI v _ _ _ => v.mode.needs
  | .xorI v _ _ _ => v.mode.needs
  | .ebfI v _ _ _ => v.mode.needs
  | .ebfuI v _ _ _ => v.mode.needs
  | .mkbfI v _ _ _ => v.mode.needs
  | .addI v _ _ _ => v.mode.needs
  | .subI v _ _ _ => v.mode.needs
  | .minI v _ _ _ => v.mode.needs
  | .maxI v _ _ _ => v.mode.needs
  | .minuI v _ _ _ => v.mode.needs
  | .maxuI v _ _ _ => v.mode.needs
  | .seqI v _ _ _ => v.mode.needs
  | .sneI v _ _ _ => v.mode.needs
  | .sltI v _ _ _ => v.mode.needs
  | .sltuI v _ _ _ => v.mode.needs
  | .sleI v _ _ _ => v.mode.needs
  | .sleuI v _ _ _ => v.mode.needs
  | .shufI v _ _ _ => v.mode.needs
  | .xchgsrI _ _ _ => []
  | .mulI v _ _ _ => v.mode.needs
  | .divI v _ _ _ => v.mode.needs
  | .divuI v _ _ _ => v.mode.needs
  | .remI v _ _ _ => v.mode.needs
  | .remuI v _ _ _ => v.mode.needs
  | .maddI v _ _ _ => v.mode.needs
  | .selI v _ _ _ => v.mode.needs
  | .ibfI v _ _ _ => v.mode.needs
  | .j _ _ => []
  | .jl _ _ => []
  | .ldwpc _ _ => []
  | .stwpc _ _ => []
  | .addpc _ _ => []
  | .addpchi _ _ => []
  | .ldi _ _ => []
  | .bz _ _ => []
  | .bnz _ _ => []
  | .bs _ _ => []
  | .bns _ _ => []
  | .bltz _ _ => []
  | .bgez _ _ => []
  | .blez _ _ => []
  | .bgtz _ _ => []

/-- An instruction word is available when every module it needs is implemented (R133). -/
def Instr.available (i : Instr) (p : Impl) : Bool := i.modules.all p.has

end Sys2Proof
end

