-- ==== Sys2Proof/Machine/Ops.lean ====
section
/-! DEFINITION. The named operations over registers, memory, cache stages, system registers and the host, the checks
that raise the model-level faults, and the fetch. There is no operation for taking an exception or returning from one:
the architecture defines neither (R340, R344, R345). -/

namespace Sys2Proof.Machine

/-- What executing an instruction gives. -/
abbrev Result := Host.Outcome State Fault Refusal

/-- Continue after an operation that gave a next state. -/
def andThen (r : Result) (k : State → Result) : Result :=
  match r with
  | .next s => k s
  | .fault f => .fault f
  | .refused e => .refused e

/-! ### Registers -/

/-- Read scalar register r; Z reads 0 (R11). -/
def State.reg (s : State) (r : Reg) : Word := if r = Reg.z then 0#32 else s.regs[r.toNat]'r.isLt

/-- Write scalar register r; a write to Z has no effect (R11). -/
def State.setReg (s : State) (r : Reg) (v : Word) : State :=
  { s with regs := if r = Reg.z then s.regs else s.regs.set r.toNat v r.isLt }

/-- Read element i of vector register r; VZ reads 0 (R21). -/
def State.elem (s : State) (r : Reg) (i : Nat) : Word :=
  if r = Reg.z then 0#32 else (s.vregs[r.toNat]'r.isLt).getD i 0#32

/-- Write element i of vector register r; a write to VZ has no effect (R21). -/
def State.setElem (s : State) (r : Reg) (i : Nat) (v : Word) : State :=
  { s with
    vregs := if r = Reg.z then s.vregs else s.vregs.set r.toNat ((s.vregs[r.toNat]'r.isLt).set i v) r.isLt }

/-- The vector length: VL as an unsigned number (R22). -/
def State.vl (s : State) : Nat := (s.reg Reg.vl).toNat

/-- Go on with the instruction at pc + 4 (R18). -/
def State.advance (s : State) : State := { s with pc := s.pc + 4#32 }

/-- Go on with the instruction at a target (R18). -/
def State.jump (s : State) (target : Word) : State := { s with pc := target }

/-! ### System registers -/

/-- The value of CPU_FEATURES_0 (R25, R26). -/
def cpuFeatures (p : Impl) : Word :=
  0#28 ++ BitVec.ofBool p.hasSM ++ BitVec.ofBool p.hasFM ++ BitVec.ofBool p.hasPM ++ BitVec.ofBool p.hasVM

/-- The value of MAX_VL (R27). -/
def maxVL (p : Impl) : Word := BitVec.ofNat 32 p.elements

/-- The system register with a number, if there is one (R24, R28). -/
def State.sysReg (s : State) (n : Word) : Option Word :=
  if n = 0x0000#32 then some (cpuFeatures s.impl) else if n = 0x0010#32 then some (maxVL s.impl) else none

/-! ### Memory -/

/-- The byte at an address (R40). -/
def State.byte (s : State) (a : Word) : Byte := sparseGet unlistedByte s.mem a.toNat

/-- The cache stage of the byte at an address (R56). -/
def State.stage (s : State) (a : Word) : Stage := sparseGet Stage.clean s.stages a.toNat

/-- Store one byte; its stage becomes stored (R42, R56). -/
def State.storeByte (s : State) (a : Word) (v : Byte) : State :=
  { s with mem := sparseSet unlistedByte s.mem a.toNat v, stages := sparseSet Stage.clean s.stages a.toNat .stored }

/-- The number whose n bytes, least significant first, are at addr, addr + 1, … modulo 2^32 (R41). -/
def State.bytesNat (s : State) (addr : Word) : Nat → Nat
  | 0 => 0
  | n + 1 => (s.byte addr).toNat + 256 * s.bytesNat (addr + 1#32) n

/-- MemRead(addr, n) (R41). -/
def State.memRead (s : State) (addr : Word) (n : Nat) : BitVec (8 * n) := BitVec.ofNat (8 * n) (s.bytesNat addr n)

/-- MemWrite(addr, n, v): the low 8n bits of v (R42). -/
def State.memWrite (s : State) (addr : Word) : Nat → Word → State
  | 0, _ => s
  | n + 1, v => (s.storeByte addr (v.setWidth 8)).memWrite (addr + 1#32) n (v >>> 8)

/-- Whether a region of the map takes in an access of n bytes of a kind at an address (R47). -/
def Region.accepts (r : Region) (addr : Word) (n : Nat) (kind : AccessKind) : Bool :=
  decide (r.base ≤ addr.toNat) && decide (addr.toNat < r.base + r.size) && r.widths.contains n &&
    match kind with
    | .fetch => r.canFetch
    | .read => r.canRead
    | .write => r.canWrite

/-- Mapped(addr, n, kind): some region of the platform's map takes in the access (R47). -/
def State.isMapped (s : State) (addr : Word) (n : Nat) (kind : AccessKind) : Bool :=
  s.impl.mapped.any fun r => Region.accepts r addr n kind

/-- The checks of a data access, alignment before mapping (R45, R47, R343). -/
def checkAccess (s : State) (addr : Word) (n : Nat) (kind : AccessKind) (k : Result) : Result :=
  if addr.toNat % n ≠ 0 then .fault (.misalignedAccess addr n s)
  else if s.isMapped addr n kind then k
  else .fault (.accessFault addr kind s)

/-! ### Cache stages (R329) -/

/-- The bytes a cache operation concerns: all of them, or those of the line containing an address (R329). -/
inductive CacheRange
  | entire
  | line (a : Word)
  deriving DecidableEq, Repr

/-- Whether an address is in a range: `floor(x / CACHE_LINE) = floor(a / CACHE_LINE)` for a line (R329). -/
def CacheRange.holds (p : Impl) (r : CacheRange) (x : Nat) : Bool :=
  match r with
  | .entire => true
  | .line a => x / p.cacheLine == a.toNat / p.cacheLine

/-- Move every byte of a range at one stage to another stage that is not clean (R329). -/
def State.moveStage (s : State) (r : CacheRange) (from' to' : Stage) : State :=
  { s with
    stages := s.stages.map fun c => if c.2 = from' && CacheRange.holds s.impl r c.1 then (c.1, to') else c }

/-- SYNC: every invalidated byte becomes clean (R328, R329). -/
def State.syncStages (s : State) : State := { s with stages := s.stages.filter fun c => c.2 ≠ .invalidated }

/-- Whether a range holds a byte that was stored and not flushed (R329). -/
def State.holdsDirty (s : State) (r : CacheRange) : Bool :=
  s.stages.any fun c => c.2 = .stored && CacheRange.holds s.impl r c.1

/-! ### Checks before an instruction executes -/

/-- The word is an instruction of R93 and every module it needs is implemented, else IllegalInstruction (R97, R133). -/
def gated (i : Instr) (s : State) (k : Result) : Result :=
  if i.wellFormed && i.available s.impl then k else .fault (.illegalInstruction (encode i) s)

/-- The vector length is within reach of a vector mode: VL ≤ N, and 2 VL ≤ N for folding (R22, R128). -/
def vlWithin (v : VMode) (s : State) : Bool :=
  match v with
  | .scalar => true
  | .vecScalar => decide (s.vl ≤ s.impl.elements)
  | .vecVec => decide (s.vl ≤ s.impl.elements)
  | .fold => decide (2 * s.vl ≤ s.impl.elements)

/-- The vector length check, else VectorLengthFault (R22, R128, R137 (4)). -/
def vlChecked (v : VMode) (s : State) (k : Result) : Result :=
  if vlWithin v s then k else .fault (.vectorLengthFault (s.reg Reg.vl) s)

/-! ### The element loop (R121, R126) -/

/-- Run a body for the elements i, i + 1, …, i + n - 1 in order, stopping at the first stop (R126, R138). -/
def forElems (body : Nat → State → Result) : Nat → Nat → State → Result
  | 0, _, s => .next s
  | n + 1, i, s => andThen (body i s) (forElems body n (i + 1))

/-- The same for a body that cannot stop. -/
def foldElems (body : Nat → State → State) : Nat → Nat → State → State
  | 0, _, s => s
  | n + 1, i, s => foldElems body n (i + 1) (body i s)

/-- The number of elements an operation covers: one for a scalar operation (R125), VL otherwise (R126). -/
def elemCount (v : VMode) (s : State) : Nat :=
  match v with
  | .scalar => 1
  | .vecScalar => s.vl
  | .vecVec => s.vl
  | .fold => s.vl

/-! ### Fetch, standby and halt (R137, R327, R366) -/

/-- Fetch the instruction word at pc: alignment, mapping, staleness, then the four bytes, least significant first
(R44, R46, R47, R56, R343). -/
def fetchWord (s : State) : Except Fault Word :=
  if s.pc.toNat % 4 ≠ 0 then .error (.misalignedFetch s.pc s)
  else if !s.isMapped s.pc 4 .fetch then .error (.accessFault s.pc .fetch s)
  else if (List.range 4).all fun k => s.stage (s.pc + BitVec.ofNat 32 k) = .clean then
    .ok (wordOfBytes (s.byte s.pc) (s.byte (s.pc + 1#32)) (s.byte (s.pc + 2#32)) (s.byte (s.pc + 3#32)))
  else .error (.staleInstructionFetch s.pc s)

/-- Take the next entry of the Wake stream: whether an event arrives, and the stream after it; none when the stream is
exhausted (R327). -/
def HostPort.nextWake (h : HostPort) : Option (Bool × HostPort) :=
  match h.wakes with
  | b :: l => some (b, { h with wakes := l })
  | [] =>
    match h.wakesThen with
    | some k => some (Config.wake k, { h with wakesThen := some (k + 1) })
    | none => none

/-- One moment of standby: an external event ends it, nothing else happens (R327, R342). -/
def standbyMoment (s : State) : State :=
  match s.host.nextWake with
  | none => s
  | some (b, h) => { s with standby := s.standby && !b, host := h }

/-- Whether a Halt predicate holds of a state (R366). -/
def HaltPred.holds (p : HaltPred) (s : State) : Bool :=
  match p with
  | .never => false
  | .pcIs a => s.pc = a
  | .regIs r v => s.reg r = v
  | .elemIs r i v => s.elem r i = v
  | .byteIs a v => s.byte a = v
  | .stageIs a g => s.stage a = g
  | .inStandby => s.standby
  | .noWakeLeft => s.host.nextWake.isNone
  | .not p => !p.holds s
  | .both p q => p.holds s && q.holds s
  | .either p q => p.holds s || q.holds s

/-- The run has ended: the host's Halt predicate holds (R366). -/
def State.halts (s : State) : Bool := s.host.halt.holds s

end Sys2Proof.Machine
end

