-- ==== Sys2Proof/Machine/Operands.lean ====
section
/-! DEFINITION. The operand forms: the six immediate encodings (R78 to R83), the operands of an element in each
vector mode (R122 to R128), the slices of an element (R124), the effective address (R150), and the three ways an
instruction runs over its elements: writing registers, loading, storing. -/

namespace Sys2Proof.Machine

/-! ### Immediates -/

/-- I15 (R78): the sign-extended 15 bits. -/
def immI15 (im : BitVec 15) : Word := im.signExtend 32

/-- I15HL (R79): H = 0, the low 14 bits sign-extended; H = 1, the low 14 bits at the top and 18 copies of bit 0. -/
def immI15HL (im : BitVec 15) : Word :=
  if im.getLsbD 14 then im.extractLsb' 0 14 ++ (if im.getLsbD 0 then BitVec.allOnes 18 else 0#18)
  else (im.extractLsb' 0 14).signExtend 32

/-- I21HL (R80): H = 0, the low 20 bits sign-extended; H = 1, the low 20 bits at the top and 12 copies of bit 0. -/
def immI21HL (im : BitVec 21) : Word :=
  if im.getLsbD 20 then im.extractLsb' 0 20 ++ (if im.getLsbD 0 then BitVec.allOnes 12 else 0#12)
  else (im.extractLsb' 0 20).signExtend 32

/-- I21H (R81): the 21 bits at the top. -/
def immI21H (im : BitVec 21) : Word := im ++ 0#11

/-- I21X4 (R82): four times the sign-extended 21 bits. -/
def immI21X4 (im : BitVec 21) : Word := im.signExtend 30 ++ 0#2

/-- I18X4 (R83): four times the sign-extended 18 bits. -/
def immI18X4 (im : BitVec 18) : Word := im.signExtend 30 ++ 0#2

/-! ### The operands of element i -/

/-- The third operand: a register number, or an expanded immediate (R120). Format A has none. -/
inductive Third
  | reg (c : Reg)
  | imm (w : Word)
  | none
  deriving DecidableEq, Repr

/-- Operand a of element i: a scalar register, or an element of a vector register (R122, R123). -/
def opA (v : VMode) (a : Reg) (i : Nat) (s : State) : Word :=
  match v with
  | .scalar => s.reg a
  | .vecScalar => s.elem a i
  | .vecVec => s.elem a i
  | .fold => s.elem a i

/-- Operand b of element i, outside load/store; in folding it is element `m + i`, m the vector length (R122, R128). -/
def opB (v : VMode) (b : Reg) (m i : Nat) (s : State) : Word :=
  match v with
  | .scalar => s.reg b
  | .vecScalar => s.elem b i
  | .vecVec => s.elem b i
  | .fold => s.elem b (m + i)

/-- Operand c of element i (R122, R123, R128). -/
def opC (v : VMode) (x : Third) (i : Nat) (s : State) : Word :=
  match x with
  | .imm w => w
  | .none => 0#32
  | .reg c =>
    match v with
    | .scalar => s.reg c
    | .vecScalar => s.reg c
    | .vecVec => s.elem c i
    | .fold => s.elem c i

/-- Write operand a of element i. -/
def setA (v : VMode) (a : Reg) (i : Nat) (w : Word) (s : State) : State :=
  match v with
  | .scalar => s.setReg a w
  | .vecScalar => s.setElem a i w
  | .vecVec => s.setElem a i w
  | .fold => s.setElem a i w

/-! ### Slices -/

/-- What an instruction computes on one slice of each width, from the slices of a, b and c (R121). -/
abbrev SliceFn := (w : Nat) → BitVec w → BitVec w → BitVec w → BitVec w

/-- Apply a slice function to every slice of an element: one word, four bytes or two half-words, slice k of each
operand giving slice k of the result (R124). -/
def slices (t : Packing) (f : SliceFn) (a b c : Word) : Word :=
  match t with
  | .word => f 32 a b c
  | .byte =>
    f 8 (a.extractLsb' 24 8) (b.extractLsb' 24 8) (c.extractLsb' 24 8) ++
    f 8 (a.extractLsb' 16 8) (b.extractLsb' 16 8) (c.extractLsb' 16 8) ++
    f 8 (a.extractLsb' 8 8) (b.extractLsb' 8 8) (c.extractLsb' 8 8) ++
    f 8 (a.extractLsb' 0 8) (b.extractLsb' 0 8) (c.extractLsb' 0 8)
  | .half =>
    f 16 (a.extractLsb' 16 16) (b.extractLsb' 16 16) (c.extractLsb' 16 16) ++
    f 16 (a.extractLsb' 0 16) (b.extractLsb' 0 16) (c.extractLsb' 0 16)

/-! ### Running an instruction over its elements -/

/-- The element loop of a register instruction: `Va[i] <- f(Va[i], Vb[i], c_i)`, or once on scalar registers (R125,
R126, R128). The vector length is read once, before the first element (R22). -/
def writeElems (v : VMode) (a b : Reg) (x : Third) (f : Word → Word → Word → Word) (s : State) : State :=
  foldElems (fun i s' => setA v a i (f (opA v a i s') (opB v b s.vl i s') (opC v x i s')) s') (elemCount v s) 0 s

/-- A register instruction: availability, vector length, element loop, pc + 4 (R137). -/
def runElems (i : Instr) (v : VMode) (a b : Reg) (x : Third) (f : Word → Word → Word → Word) (s : State) : Result :=
  gated i s (vlChecked v s (.next (writeElems v a b x f s).advance))

/-- The scale of a load/store offset (R75). -/
def Scale.factor : Scale → Nat
  | .x1 => 1
  | .x2 => 2
  | .x4 => 4
  | .x8 => 8

/-- The effective address of element i (R150): in V = 10 the offset is a stride, `int(b) + int(c) × i × scale`; else
`int(b) + int(c) × scale`; modulo 2^32. The base is always a scalar register (R123). -/
def effAddr (v : VMode) (b : Reg) (x : Third) (scale i : Nat) (s : State) : Word :=
  match v with
  | .vecScalar => BitVec.ofInt 32 ((s.reg b).toInt + (opC v x i s).toInt * i * scale)
  | .scalar => BitVec.ofInt 32 ((s.reg b).toInt + (opC v x i s).toInt * scale)
  | .vecVec => BitVec.ofInt 32 ((s.reg b).toInt + (opC v x i s).toInt * scale)
  | .fold => BitVec.ofInt 32 ((s.reg b).toInt + (opC v x i s).toInt * scale)

/-- Load element i: address, checks, n bytes extended to a word, destination (R151). -/
def loadElem (v : VMode) (a b : Reg) (x : Third) (scale n : Nat) (ext : BitVec (8 * n) → Word) (i : Nat) (s : State) :
    Result :=
  checkAccess s (effAddr v b x scale i s) n .read
    (.next (setA v a i (ext (s.memRead (effAddr v b x scale i s) n)) s))

/-- A load: availability, vector length, element loop, pc + 4 (R137, R151). -/
def runLoad (j : Instr) (v : VMode) (a b : Reg) (x : Third) (scale n : Nat) (ext : BitVec (8 * n) → Word)
    (s : State) : Result :=
  gated j s (vlChecked v s
    (andThen (forElems (loadElem v a b x scale n ext) (elemCount v s) 0 s) fun s' => .next s'.advance))

/-- Store element i: address, checks, the low n bytes of operand a (R152). -/
def storeElem (v : VMode) (a b : Reg) (x : Third) (scale n : Nat) (i : Nat) (s : State) : Result :=
  checkAccess s (effAddr v b x scale i s) n .write (.next (s.memWrite (effAddr v b x scale i s) n (opA v a i s)))

/-- A store: availability, vector length, element loop, pc + 4 (R137, R152). -/
def runStore (j : Instr) (v : VMode) (a b : Reg) (x : Third) (scale n : Nat) (s : State) : Result :=
  gated j s (vlChecked v s
    (andThen (forElems (storeElem v a b x scale n) (elemCount v s) 0 s) fun s' => .next s'.advance))

/-- LDEA: the effective addresses themselves are the results; no memory is accessed (R158). -/
def runLdea (j : Instr) (v : VMode) (a b : Reg) (x : Third) (scale : Nat) (s : State) : Result :=
  gated j s (vlChecked v s
    (.next (foldElems (fun i s' => setA v a i (effAddr v b x scale i s') s') (elemCount v s) 0 s).advance))

end Sys2Proof.Machine
end

