-- ==== Sys2Proof/Machine/Arith.lean ====
section
/-! DEFINITION. Integer arithmetic instructions (R170 to R186). -/

namespace Sys2Proof.Machine

/-- ADD (R170): int(b) + int(c). -/
def addSlice : SliceFn := fun w _ b c => BitVec.ofInt w (b.toInt + c.toInt)

/-- SUB (R171): int(c) - int(b). -/
def subSlice : SliceFn := fun w _ b c => BitVec.ofInt w (c.toInt - b.toInt)

/-- MUL (R172): int(b) × int(c). -/
def mulSlice : SliceFn := fun w _ b c => BitVec.ofInt w (b.toInt * c.toInt)

/-- MADD (R173): int(a) + int(b) × int(c). -/
def maddSlice : SliceFn := fun w a b c => BitVec.ofInt w (a.toInt + b.toInt * c.toInt)

/-- MULHI (R174): (int(b) × int(c)) >> bits, the floor of the exact quotient (R8). -/
def mulhiSlice : SliceFn := fun w _ b c => BitVec.ofInt w (b.toInt * c.toInt / 2 ^ w)

/-- MULHIU (R175): (uint(b) × uint(c)) >> bits. -/
def mulhiuSlice : SliceFn := fun w _ b c => BitVec.ofNat w (b.toNat * c.toNat / 2 ^ w)

/-- DIV (R176): the quotient rounded toward zero (D8); a free value for a zero divisor (D9). -/
def divSlice : SliceFn := fun w _ b c =>
  if c = 0#w then Config.divZero .div w b c else BitVec.ofInt w (b.toInt.tdiv c.toInt)

/-- DIVU (R177): the quotient rounded down; a free value for a zero divisor (D9). -/
def divuSlice : SliceFn := fun w _ b c =>
  if c = 0#w then Config.divZero .divu w b c else BitVec.ofNat w (b.toNat / c.toNat)

/-- REM (R178): the remainder that goes with the quotient of DIV (D8); a free value for a zero divisor (D9). -/
def remSlice : SliceFn := fun w _ b c =>
  if c = 0#w then Config.divZero .rem w b c else BitVec.ofInt w (b.toInt - c.toInt * b.toInt.tdiv c.toInt)

/-- REMU (R179): uint(b) mod uint(c); a free value for a zero divisor (D9). -/
def remuSlice : SliceFn := fun w _ b c =>
  if c = 0#w then Config.divZero .remu w b c else BitVec.ofNat w (b.toNat % c.toNat)

/-- MIN (R180): min(int(b), int(c)). -/
def minSlice : SliceFn := fun _ _ b c => if b.toInt ≤ c.toInt then b else c

/-- MAX (R181): max(int(b), int(c)). -/
def maxSlice : SliceFn := fun _ _ b c => if b.toInt ≤ c.toInt then c else b

/-- MINU (R182): min(uint(b), uint(c)). -/
def minuSlice : SliceFn := fun _ _ b c => if b.toNat ≤ c.toNat then b else c

/-- MAXU (R183): max(uint(b), uint(c)). -/
def maxuSlice : SliceFn := fun _ _ b c => if b.toNat ≤ c.toNat then c else b

/-- ADD, format B (R170): the sum. -/
def execAdd (v : VMode) (t : Packing) (a b c : Reg) (s : State) : Result :=
  runElems (.add v t a b c) v a b (.reg c) (slices t addSlice) s

/-- ADD, format C (R170, R79): the sum. -/
def execAddI (v : VBit) (a b : Reg) (im : BitVec 15) (s : State) : Result :=
  runElems (.addI v a b im) v.mode a b (.imm (immI15HL im)) (addSlice 32) s

/-- SUB, format B (R171): c minus b. -/
def execSub (v : VMode) (t : Packing) (a b c : Reg) (s : State) : Result :=
  runElems (.sub v t a b c) v a b (.reg c) (slices t subSlice) s

/-- SUB, format C (R171, R79): c minus b. -/
def execSubI (v : VBit) (a b : Reg) (im : BitVec 15) (s : State) : Result :=
  runElems (.subI v a b im) v.mode a b (.imm (immI15HL im)) (subSlice 32) s

/-- MUL, format B (R172): the low part of the product. -/
def execMul (v : VMode) (t : Packing) (a b c : Reg) (s : State) : Result :=
  runElems (.mul v t a b c) v a b (.reg c) (slices t mulSlice) s

/-- MUL, format C (R172, R79): the low part of the product. -/
def execMulI (v : VBit) (a b : Reg) (im : BitVec 15) (s : State) : Result :=
  runElems (.mulI v a b im) v.mode a b (.imm (immI15HL im)) (mulSlice 32) s

/-- MADD, format B (R173): a plus the product. -/
def execMadd (v : VMode) (t : Packing) (a b c : Reg) (s : State) : Result :=
  runElems (.madd v t a b c) v a b (.reg c) (slices t maddSlice) s

/-- MADD, format C (R173, R79): a plus the product. -/
def execMaddI (v : VBit) (a b : Reg) (im : BitVec 15) (s : State) : Result :=
  runElems (.maddI v a b im) v.mode a b (.imm (immI15HL im)) (maddSlice 32) s

/-- MULHI, format B (R174): the upper part of the signed product. -/
def execMulhi (v : VMode) (t : Packing) (a b c : Reg) (s : State) : Result :=
  runElems (.mulhi v t a b c) v a b (.reg c) (slices t mulhiSlice) s

/-- MULHIU, format B (R175): the upper part of the unsigned product. -/
def execMulhiu (v : VMode) (t : Packing) (a b c : Reg) (s : State) : Result :=
  runElems (.mulhiu v t a b c) v a b (.reg c) (slices t mulhiuSlice) s

/-- DIV, format B (R176): the signed quotient. -/
def execDiv (v : VMode) (t : Packing) (a b c : Reg) (s : State) : Result :=
  runElems (.div v t a b c) v a b (.reg c) (slices t divSlice) s

/-- DIV, format C (R176, R79): the signed quotient. -/
def execDivI (v : VBit) (a b : Reg) (im : BitVec 15) (s : State) : Result :=
  runElems (.divI v a b im) v.mode a b (.imm (immI15HL im)) (divSlice 32) s

/-- DIVU, format B (R177): the unsigned quotient. -/
def execDivu (v : VMode) (t : Packing) (a b c : Reg) (s : State) : Result :=
  runElems (.divu v t a b c) v a b (.reg c) (slices t divuSlice) s

/-- DIVU, format C (R177, R79): the unsigned quotient. -/
def execDivuI (v : VBit) (a b : Reg) (im : BitVec 15) (s : State) : Result :=
  runElems (.divuI v a b im) v.mode a b (.imm (immI15HL im)) (divuSlice 32) s

/-- REM, format B (R178): the signed remainder. -/
def execRem (v : VMode) (t : Packing) (a b c : Reg) (s : State) : Result :=
  runElems (.rem v t a b c) v a b (.reg c) (slices t remSlice) s

/-- REM, format C (R178, R79): the signed remainder. -/
def execRemI (v : VBit) (a b : Reg) (im : BitVec 15) (s : State) : Result :=
  runElems (.remI v a b im) v.mode a b (.imm (immI15HL im)) (remSlice 32) s

/-- REMU, format B (R179): the unsigned remainder. -/
def execRemu (v : VMode) (t : Packing) (a b c : Reg) (s : State) : Result :=
  runElems (.remu v t a b c) v a b (.reg c) (slices t remuSlice) s

/-- REMU, format C (R179, R79): the unsigned remainder. -/
def execRemuI (v : VBit) (a b : Reg) (im : BitVec 15) (s : State) : Result :=
  runElems (.remuI v a b im) v.mode a b (.imm (immI15HL im)) (remuSlice 32) s

/-- MIN, format B (R180): the signed minimum. -/
def execMin (v : VMode) (t : Packing) (a b c : Reg) (s : State) : Result :=
  runElems (.min v t a b c) v a b (.reg c) (slices t minSlice) s

/-- MIN, format C (R180, R79): the signed minimum. -/
def execMinI (v : VBit) (a b : Reg) (im : BitVec 15) (s : State) : Result :=
  runElems (.minI v a b im) v.mode a b (.imm (immI15HL im)) (minSlice 32) s

/-- MAX, format B (R181): the signed maximum. -/
def execMax (v : VMode) (t : Packing) (a b c : Reg) (s : State) : Result :=
  runElems (.max v t a b c) v a b (.reg c) (slices t maxSlice) s

/-- MAX, format C (R181, R79): the signed maximum. -/
def execMaxI (v : VBit) (a b : Reg) (im : BitVec 15) (s : State) : Result :=
  runElems (.maxI v a b im) v.mode a b (.imm (immI15HL im)) (maxSlice 32) s

/-- MINU, format B (R182): the unsigned minimum. -/
def execMinu (v : VMode) (t : Packing) (a b c : Reg) (s : State) : Result :=
  runElems (.minu v t a b c) v a b (.reg c) (slices t minuSlice) s

/-- MINU, format C (R182, R79): the unsigned minimum. -/
def execMinuI (v : VBit) (a b : Reg) (im : BitVec 15) (s : State) : Result :=
  runElems (.minuI v a b im) v.mode a b (.imm (immI15HL im)) (minuSlice 32) s

/-- MAXU, format B (R183): the unsigned maximum. -/
def execMaxu (v : VMode) (t : Packing) (a b c : Reg) (s : State) : Result :=
  runElems (.maxu v t a b c) v a b (.reg c) (slices t maxuSlice) s

/-- MAXU, format C (R183, R79): the unsigned maximum. -/
def execMaxuI (v : VBit) (a b : Reg) (im : BitVec 15) (s : State) : Result :=
  runElems (.maxuI v a b im) v.mode a b (.imm (immI15HL im)) (maxuSlice 32) s

/-- ADDPC (R184): pc plus four times the immediate. -/
def execAddpc (a : Reg) (im : BitVec 21) (s : State) : Result :=
  gated (.addpc a im) s (.next (s.setReg a (s.pc + immI21X4 im)).advance)

/-- ADDPCHI (R185): pc plus the immediate in the upper 21 bits. -/
def execAddpchi (a : Reg) (im : BitVec 21) (s : State) : Result :=
  gated (.addpchi a im) s (.next (s.setReg a (s.pc + immI21H im)).advance)

end Sys2Proof.Machine
end

