-- ==== Sys2Proof/Machine/Flags.lean ====
section
/-! DEFINITION. MRISC32 has no flags (R19): a comparison writes a mask to a register instead. The mask, and the bit
vector of ones, are here. -/

namespace Sys2Proof.Machine

/-- `ones(k)` in the low bits of a w-bit vector (R8). -/
def lowOnes (w k : Nat) : BitVec w := BitVec.ofNat w (2 ^ k - 1)

/-- The result of a comparison: all bits 1 when it holds, all bits 0 when it does not (R190). -/
def mask (w : Nat) (holds : Bool) : BitVec w := if holds then BitVec.allOnes w else 0#w

end Sys2Proof.Machine
end

