-- ==== Sys2Proof/Machine/BitManip.lean ====
section
/-! DEFINITION. Bit manipulation and checksum instructions (R225 to R246). -/

namespace Sys2Proof.Machine

/-- The bit field offset o of a control slice (R225). -/
def fieldOffset {w : Nat} (c : BitVec w) : Nat := (c &&& BitVec.ofNat w (w - 1)).toNat

/-- The bit field width of a control slice; a descriptor of zero is the full width (R225). -/
def fieldWidth {w : Nat} (c : BitVec w) : Nat :=
  let d := (c >>> (if w = 8 then 4 else 8) &&& BitVec.ofNat w (w - 1)).toNat
  if d = 0 then w else d

/-- EBF (R226): the field of the sign-extended b, sign-extended. -/
def ebfSlice : SliceFn := fun w _ b c =>
  BitVec.ofInt w ((b.toInt / 2 ^ fieldOffset c).bmod (2 ^ fieldWidth c))

/-- EBFU (R227): (b >> o) & ones(w). -/
def ebfuSlice : SliceFn := fun w _ b c => b >>> fieldOffset c &&& lowOnes w (fieldWidth c)

/-- MKBF (R228): (b & ones(w)) << o. -/
def mkbfSlice : SliceFn := fun w _ b c => (b &&& lowOnes w (fieldWidth c)) <<< fieldOffset c

/-- IBF (R229): (a & ~(ones(w) << o)) | ((b & ones(w)) << o). -/
def ibfSlice : SliceFn := fun w a b c =>
  (a &&& ~~~(lowOnes w (fieldWidth c) <<< fieldOffset c)) ||| ((b &&& lowOnes w (fieldWidth c)) <<< fieldOffset c)

/-- Destination byte k of SHUF (R230). -/
def shufByte (b c : Word) (k : Nat) : Byte :=
  let byte := b.extractLsb' (8 * (c.extractLsb' (3 * k) 2).toNat) 8
  if c.getLsbD (3 * k + 2) then (if c.getLsbD 12 && byte.getLsbD 7 then BitVec.allOnes 8 else 0#8) else byte

/-- SHUF (R230). -/
def shufWord (_a b c : Word) : Word := shufByte b c 3 ++ shufByte b c 2 ++ shufByte b c 1 ++ shufByte b c 0

/-- How many of the bits n - 1, n - 2, … of b are equal to v before the first that is not (R236, R238). -/
def runDown {w : Nat} (b : BitVec w) (v : Bool) : Nat → Nat
  | 0 => 0
  | n + 1 => if b.getLsbD n = v then runDown b v n + 1 else 0

/-- How many of the n bits k, k + 1, … of b are equal to v before the first that is not (R237, R239). -/
def runUp {w : Nat} (b : BitVec w) (v : Bool) : Nat → Nat → Nat
  | 0, _ => 0
  | n + 1, k => if b.getLsbD k = v then runUp b v n (k + 1) + 1 else 0

/-- How many of the bits below n of b are one (R240). -/
def onesBelow {w : Nat} (b : BitVec w) : Nat → Nat
  | 0 => 0
  | n + 1 => onesBelow b n + (b.getLsbD n).toNat

/-- CLZ (R236). -/
def clzSlice : SliceFn := fun w _ b _ => BitVec.ofNat w (runDown b false w)

/-- CTZ (R237). -/
def ctzSlice : SliceFn := fun w _ b _ => BitVec.ofNat w (runUp b false w 0)

/-- CLO (R238). -/
def cloSlice : SliceFn := fun w _ b _ => BitVec.ofNat w (runDown b true w)

/-- CTO (R239). -/
def ctoSlice : SliceFn := fun w _ b _ => BitVec.ofNat w (runUp b true w 0)

/-- POPCNT (R240). -/
def popcntSlice : SliceFn := fun w _ b _ => BitVec.ofNat w (onesBelow b w)

/-- REV (R241). -/
def revSlice : SliceFn := fun _ _ b _ => b.reverse

/-- One, two or four checksum steps over the bytes of b, least significant first (R244). -/
def crcBytes (f : Word → Byte → Word) (t : CrcWidth) (a b : Word) : Word :=
  match t with
  | .w8 => f a (b.extractLsb' 0 8)
  | .w16 => f (f a (b.extractLsb' 0 8)) (b.extractLsb' 8 8)
  | .w32 =>
    f (f (f (f a (b.extractLsb' 0 8)) (b.extractLsb' 8 8)) (b.extractLsb' 16 8)) (b.extractLsb' 24 8)

/-- CRC32C (R245). -/
def crc32cWord (t : CrcWidth) (a b _c : Word) : Word := crcBytes Config.crc32cStep t a b

/-- CRC32 (R246). -/
def crc32Word (t : CrcWidth) (a b _c : Word) : Word := crcBytes Config.crc32Step t a b

/-- EBF, format B (R226): extract a bit field, sign-extended. -/
def execEbf (v : VMode) (t : Packing) (a b c : Reg) (s : State) : Result :=
  runElems (.ebf v t a b c) v a b (.reg c) (slices t ebfSlice) s

/-- EBF, format C (R226, R79): extract a bit field, sign-extended. -/
def execEbfI (v : VBit) (a b : Reg) (im : BitVec 15) (s : State) : Result :=
  runElems (.ebfI v a b im) v.mode a b (.imm (immI15HL im)) (ebfSlice 32) s

/-- EBFU, format B (R227): extract a bit field, zero-extended. -/
def execEbfu (v : VMode) (t : Packing) (a b c : Reg) (s : State) : Result :=
  runElems (.ebfu v t a b c) v a b (.reg c) (slices t ebfuSlice) s

/-- EBFU, format C (R227, R79): extract a bit field, zero-extended. -/
def execEbfuI (v : VBit) (a b : Reg) (im : BitVec 15) (s : State) : Result :=
  runElems (.ebfuI v a b im) v.mode a b (.imm (immI15HL im)) (ebfuSlice 32) s

/-- MKBF, format B (R228): make a bit field. -/
def execMkbf (v : VMode) (t : Packing) (a b c : Reg) (s : State) : Result :=
  runElems (.mkbf v t a b c) v a b (.reg c) (slices t mkbfSlice) s

/-- MKBF, format C (R228, R79): make a bit field. -/
def execMkbfI (v : VBit) (a b : Reg) (im : BitVec 15) (s : State) : Result :=
  runElems (.mkbfI v a b im) v.mode a b (.imm (immI15HL im)) (mkbfSlice 32) s

/-- IBF, format B (R229): insert a bit field. -/
def execIbf (v : VMode) (t : Packing) (a b c : Reg) (s : State) : Result :=
  runElems (.ibf v t a b c) v a b (.reg c) (slices t ibfSlice) s

/-- IBF, format C (R229, R79): insert a bit field. -/
def execIbfI (v : VBit) (a b : Reg) (im : BitVec 15) (s : State) : Result :=
  runElems (.ibfI v a b im) v.mode a b (.imm (immI15HL im)) (ibfSlice 32) s

/-- SHUF, format B (R230): shuffle bytes. -/
def execShuf (v : VMode) (a b c : Reg) (s : State) : Result :=
  runElems (.shuf v a b c) v a b (.reg c) shufWord s

/-- SHUF, format C (R230, R79): shuffle bytes. -/
def execShufI (v : VBit) (a b : Reg) (im : BitVec 15) (s : State) : Result :=
  runElems (.shufI v a b im) v.mode a b (.imm (immI15HL im)) shufWord s

/-- CLZ, format A (R236): count leading zeros. -/
def execClz (v : VBit) (t : Packing) (a b : Reg) (s : State) : Result :=
  runElems (.clz v t a b) v.mode a b .none (slices t clzSlice) s

/-- CTZ, format A (R237): count trailing zeros. -/
def execCtz (v : VBit) (t : Packing) (a b : Reg) (s : State) : Result :=
  runElems (.ctz v t a b) v.mode a b .none (slices t ctzSlice) s

/-- CLO, format A (R238): count leading ones. -/
def execClo (v : VBit) (t : Packing) (a b : Reg) (s : State) : Result :=
  runElems (.clo v t a b) v.mode a b .none (slices t cloSlice) s

/-- CTO, format A (R239): count trailing ones. -/
def execCto (v : VBit) (t : Packing) (a b : Reg) (s : State) : Result :=
  runElems (.cto v t a b) v.mode a b .none (slices t ctoSlice) s

/-- POPCNT, format A (R240): count the ones. -/
def execPopcnt (v : VBit) (t : Packing) (a b : Reg) (s : State) : Result :=
  runElems (.popcnt v t a b) v.mode a b .none (slices t popcntSlice) s

/-- REV, format A (R241): reverse the bits. -/
def execRev (v : VBit) (t : Packing) (a b : Reg) (s : State) : Result :=
  runElems (.rev v t a b) v.mode a b .none (slices t revSlice) s

/-- CRC32C, format A (R245): the checksum step. -/
def execCrc32c (v : VBit) (t : CrcWidth) (a b : Reg) (s : State) : Result :=
  runElems (.crc32c v t a b) v.mode a b .none (crc32cWord t) s

/-- CRC32, format A (R246): the checksum step. -/
def execCrc32 (v : VBit) (t : CrcWidth) (a b : Reg) (s : State) : Result :=
  runElems (.crc32 v t a b) v.mode a b .none (crc32Word t) s

end Sys2Proof.Machine
end

