-- ==== Sys2Proof/Machine/Branch.lean ====
section
/-! DEFINITION. Branch and jump instructions (R197 to R209). -/

namespace Sys2Proof.Machine

/-- A conditional branch: to pc plus four times the immediate when the condition holds, else to pc + 4 (R197). -/
def runBranch (i : Instr) (im : BitVec 18) (holds : Bool) (s : State) : Result :=
  gated i s (.next (if holds then s.jump (s.pc + immI18X4 im) else s.advance))

/-- The base of J and JL: pc for register number 31, else the register (R16, R206). -/
def jumpBase (a : Reg) (s : State) : Word := if a = Reg.vl then s.pc else s.reg a

/-- BZ (R198): branch when every bit is zero. -/
def execBz (a : Reg) (im : BitVec 18) (s : State) : Result :=
  runBranch (.bz a im) im (s.reg a == 0#32) s

/-- BNZ (R199): branch when a bit is one. -/
def execBnz (a : Reg) (im : BitVec 18) (s : State) : Result :=
  runBranch (.bnz a im) im (s.reg a != 0#32) s

/-- BS (R200): branch when every bit is one. -/
def execBs (a : Reg) (im : BitVec 18) (s : State) : Result :=
  runBranch (.bs a im) im (s.reg a == BitVec.allOnes 32) s

/-- BNS (R201): branch when a bit is zero. -/
def execBns (a : Reg) (im : BitVec 18) (s : State) : Result :=
  runBranch (.bns a im) im (s.reg a != BitVec.allOnes 32) s

/-- BLTZ (R202): branch when int(a) < 0. -/
def execBltz (a : Reg) (im : BitVec 18) (s : State) : Result :=
  runBranch (.bltz a im) im (decide ((s.reg a).toInt < 0)) s

/-- BGEZ (R203): branch when int(a) ≥ 0. -/
def execBgez (a : Reg) (im : BitVec 18) (s : State) : Result :=
  runBranch (.bgez a im) im (decide (0 ≤ (s.reg a).toInt)) s

/-- BLEZ (R204): branch when int(a) ≤ 0. -/
def execBlez (a : Reg) (im : BitVec 18) (s : State) : Result :=
  runBranch (.blez a im) im (decide ((s.reg a).toInt ≤ 0)) s

/-- BGTZ (R205): branch when int(a) > 0. -/
def execBgtz (a : Reg) (im : BitVec 18) (s : State) : Result :=
  runBranch (.bgtz a im) im (decide (0 < (s.reg a).toInt)) s

/-- J (R206): jump to the base plus four times the immediate. -/
def execJ (a : Reg) (im : BitVec 21) (s : State) : Result :=
  gated (.j a im) s (.next (s.jump (jumpBase a s + immI21X4 im)))

/-- JL (R207): the base is read, then LR receives pc + 4, then the jump. -/
def execJl (a : Reg) (im : BitVec 21) (s : State) : Result :=
  gated (.jl a im) s (.next ((s.setReg Reg.lr (s.pc + 4#32)).jump (jumpBase a s + immI21X4 im)))

end Sys2Proof.Machine
end

