-- ==== Sys2Proof/Machine/Compare.lean ====
section
/-! DEFINITION. Integer comparison instructions (R190 to R196). -/

namespace Sys2Proof.Machine

/-- SEQ (R191): the mask of b = c. -/
def seqSlice : SliceFn := fun w _ b c => mask w (b == c)

/-- SNE (R192): the mask of b ≠ c. -/
def sneSlice : SliceFn := fun w _ b c => mask w (b != c)

/-- SLT (R193): the mask of int(b) < int(c). -/
def sltSlice : SliceFn := fun w _ b c => mask w (decide (b.toInt < c.toInt))

/-- SLTU (R194): the mask of uint(b) < uint(c). -/
def sltuSlice : SliceFn := fun w _ b c => mask w (decide (b.toNat < c.toNat))

/-- SLE (R195): the mask of int(b) ≤ int(c). -/
def sleSlice : SliceFn := fun w _ b c => mask w (decide (b.toInt ≤ c.toInt))

/-- SLEU (R196): the mask of uint(b) ≤ uint(c). -/
def sleuSlice : SliceFn := fun w _ b c => mask w (decide (b.toNat ≤ c.toNat))

/-- SEQ, format B (R191): the mask of b = c. -/
def execSeq (v : VMode) (t : Packing) (a b c : Reg) (s : State) : Result :=
  runElems (.seq v t a b c) v a b (.reg c) (slices t seqSlice) s

/-- SEQ, format C (R191, R79): the mask of b = c. -/
def execSeqI (v : VBit) (a b : Reg) (im : BitVec 15) (s : State) : Result :=
  runElems (.seqI v a b im) v.mode a b (.imm (immI15HL im)) (seqSlice 32) s

/-- SNE, format B (R192): the mask of b ≠ c. -/
def execSne (v : VMode) (t : Packing) (a b c : Reg) (s : State) : Result :=
  runElems (.sne v t a b c) v a b (.reg c) (slices t sneSlice) s

/-- SNE, format C (R192, R79): the mask of b ≠ c. -/
def execSneI (v : VBit) (a b : Reg) (im : BitVec 15) (s : State) : Result :=
  runElems (.sneI v a b im) v.mode a b (.imm (immI15HL im)) (sneSlice 32) s

/-- SLT, format B (R193): the mask of int(b) < int(c). -/
def execSlt (v : VMode) (t : Packing) (a b c : Reg) (s : State) : Result :=
  runElems (.slt v t a b c) v a b (.reg c) (slices t sltSlice) s

/-- SLT, format C (R193, R79): the mask of int(b) < int(c). -/
def execSltI (v : VBit) (a b : Reg) (im : BitVec 15) (s : State) : Result :=
  runElems (.sltI v a b im) v.mode a b (.imm (immI15HL im)) (sltSlice 32) s

/-- SLTU, format B (R194): the mask of uint(b) < uint(c). -/
def execSltu (v : VMode) (t : Packing) (a b c : Reg) (s : State) : Result :=
  runElems (.sltu v t a b c) v a b (.reg c) (slices t sltuSlice) s

/-- SLTU, format C (R194, R79): the mask of uint(b) < uint(c). -/
def execSltuI (v : VBit) (a b : Reg) (im : BitVec 15) (s : State) : Result :=
  runElems (.sltuI v a b im) v.mode a b (.imm (immI15HL im)) (sltuSlice 32) s

/-- SLE, format B (R195): the mask of int(b) ≤ int(c). -/
def execSle (v : VMode) (t : Packing) (a b c : Reg) (s : State) : Result :=
  runElems (.sle v t a b c) v a b (.reg c) (slices t sleSlice) s

/-- SLE, format C (R195, R79): the mask of int(b) ≤ int(c). -/
def execSleI (v : VBit) (a b : Reg) (im : BitVec 15) (s : State) : Result :=
  runElems (.sleI v a b im) v.mode a b (.imm (immI15HL im)) (sleSlice 32) s

/-- SLEU, format B (R196): the mask of uint(b) ≤ uint(c). -/
def execSleu (v : VMode) (t : Packing) (a b c : Reg) (s : State) : Result :=
  runElems (.sleu v t a b c) v a b (.reg c) (slices t sleuSlice) s

/-- SLEU, format C (R196, R79): the mask of uint(b) ≤ uint(c). -/
def execSleuI (v : VBit) (a b : Reg) (im : BitVec 15) (s : State) : Result :=
  runElems (.sleuI v a b im) v.mode a b (.imm (immI15HL im)) (sleuSlice 32) s

end Sys2Proof.Machine
end

