-- ==== Sys2Proof/Machine/Control.lean ====
section
/-! DEFINITION. Processor control and status instructions (R325 to R330). -/

namespace Sys2Proof.Machine

/-- XCHGSR on register number n of the system registers (R325, R28): both registers are read-only. -/
def runXchgsr (i : Instr) (a b : Reg) (n : Word) (s : State) : Result :=
  gated i s (
    if a = Reg.z ∧ b = Reg.z then .next s.advance
    else
      match s.sysReg n with
      | none => .fault (.unknownSystemRegister n s)
      | some v => if b = Reg.z then .next (s.setReg a v).advance else .fault (.readOnlySystemRegister n s))

/-- Invalidate data cache contents: no effect, unless stored data could be lost (R329). -/
def invalidateData (r : CacheRange) (a b : Word) (s : State) : Result :=
  if s.holdsDirty r then .fault (.dirtyDataInvalidate a b s) else .next s

/-- The cache operation with code b and address a (R329). -/
def cacheOp (a b : Word) (s : State) : Result :=
  if b = 0x00000000#32 then .next (s.moveStage .entire .flushed .invalidated)
  else if b = 0x00000001#32 then invalidateData .entire a b s
  else if b = 0x00000002#32 then .next s
  else if b = 0x00000100#32 then .next (s.moveStage (.line a) .flushed .invalidated)
  else if b = 0x00000101#32 then invalidateData (.line a) a b s
  else if b = 0x00000201#32 then .next (s.moveStage .entire .stored .flushed)
  else if b = 0x00000301#32 then .next (s.moveStage (.line a) .stored .flushed)
  else .next s

/-- XCHGSR, format B (R325). -/
def execXchgsr (a b c : Reg) (s : State) : Result :=
  runXchgsr (.xchgsr a b c) a b (s.reg c) s

/-- XCHGSR, format C (R325, R79). -/
def execXchgsrI (a b : Reg) (im : BitVec 15) (s : State) : Result :=
  runXchgsr (.xchgsrI a b im) a b (immI15HL im) s

/-- WAIT (R327): enter standby; the next instruction is the one after it. -/
def execWait (s : State) : Result :=
  gated .wait s (.next { s.advance with standby := true })

/-- SYNC (R328): invalidated bytes become clean; nothing else changes. -/
def execSync (s : State) : Result :=
  gated .sync s (.next s.syncStages.advance)

/-- CCTRL (R329): the cache operation, then the destination register is written with its own value. -/
def execCctrl (a b : Reg) (s : State) : Result :=
  gated (.cctrl a b) s (andThen (cacheOp (s.reg a) (s.reg b) s) fun s' => .next (s'.setReg a (s'.reg a)).advance)

end Sys2Proof.Machine
end

