-- ==== Sys2Proof/Machine/FpValue.lean ====
section
/-! DEFINITION. Floating-point encodings of width 32, 16 and 8, the reals they stand for, rounding, narrowing and
widening (R250 to R256). A finite value is held exactly, as a signed integer times a power of two. -/

namespace Sys2Proof.Machine

/-! ### Formats (R250, R251) -/

/-- The number of exponent bits: 8, 5, 4 in float32, float16, float8. -/
def fpExpBits (w : Nat) : Nat := if w = 8 then 4 else if w = 16 then 5 else 8

/-- The number of fraction bits: 23, 10, 3 in float32, float16, float8. -/
def fpFracBits (w : Nat) : Nat := if w = 8 then 3 else if w = 16 then 10 else 23

/-- The exponent bias: 127, 15, 7. -/
def fpBias (w : Nat) : Int := 2 ^ (fpExpBits w - 1) - 1

/-- The sign bit S. -/
def fpSign {w : Nat} (x : BitVec w) : Bool := x.getLsbD (fpExpBits w + fpFracBits w)

/-- The exponent field E. -/
def fpExp {w : Nat} (x : BitVec w) : Nat := x.toNat / 2 ^ fpFracBits w % 2 ^ fpExpBits w

/-- The fraction field F. -/
def fpFrac {w : Nat} (x : BitVec w) : Nat := x.toNat % 2 ^ fpFracBits w

/-! ### Classes and values -/

/-- The IEEE 754 pattern: E all ones is an infinity when F = 0 and a NaN otherwise (R250, R253; for float8 the default
of R251). PRESUMED (log entry 20): the spec marks it as general knowledge. -/
def ieeeClass {w : Nat} (x : BitVec w) : FpClass :=
  if fpExp x = 2 ^ fpExpBits w - 1 then (if fpFrac x = 0 then .inf else .nan) else .finite

/-- The class of an encoding (R254); for float8 it is F8Special, whose listed encodings override the default (R256). -/
def fpClass (p : Impl) {w : Nat} (x : BitVec w) : FpClass :=
  if w = 8 then
    match p.f8Class.find? fun c => c.1.toNat == x.toNat with
    | some c => c.2
    | none => ieeeClass x
  else ieeeClass x

/-- `isnan(x)` (R253). -/
def fpIsNan (p : Impl) {w : Nat} (x : BitVec w) : Bool := fpClass p x == .nan

/-- An exact binary value `man · 2^exp`. -/
structure FpVal where
  man : Int
  exp : Int
  deriving DecidableEq, Repr

/-- `float(x)` of a finite encoding (R250, R251, R254): (-1)^S (2^f + F) 2^(E - bias - f) when E is not 0, and
(-1)^S F 2^(1 - bias - f) when E = 0. -/
def fpVal {w : Nat} (x : BitVec w) : FpVal :=
  let mag : Int := if fpExp x = 0 then fpFrac x else 2 ^ fpFracBits w + fpFrac x
  let e : Int := if fpExp x = 0 then 1 else fpExp x
  { man := if fpSign x then -mag else mag, exp := e - fpBias w - fpFracBits w }

/-- The mantissa of a value when its exponent is lowered to e. -/
def FpVal.at (x : FpVal) (e : Int) : Int := x.man * 2 ^ (x.exp - e).toNat

/-- The exact sum. -/
def FpVal.add (x y : FpVal) : FpVal :=
  { man := x.at (min x.exp y.exp) + y.at (min x.exp y.exp), exp := min x.exp y.exp }

/-- The exact difference. -/
def FpVal.sub (x y : FpVal) : FpVal :=
  { man := x.at (min x.exp y.exp) - y.at (min x.exp y.exp), exp := min x.exp y.exp }

/-- The exact product. -/
def FpVal.mul (x y : FpVal) : FpVal := { man := x.man * y.man, exp := x.exp + y.exp }

/-- x < y as reals. -/
def FpVal.lt (x y : FpVal) : Bool := decide (x.at (min x.exp y.exp) < y.at (min x.exp y.exp))

/-- x = y as reals. -/
def FpVal.eq (x y : FpVal) : Bool := decide (x.at (min x.exp y.exp) = y.at (min x.exp y.exp))

/-! ### Rounding (R252) -/

/-- How many times 2 divides n, looking at most k times. -/
def countTwos : Nat → Nat → Nat
  | 0, _ => 0
  | k + 1, n => if n % 2 = 0 then countTwos k (n / 2) + 1 else 0

/-- The power of two in a nonzero n. -/
def twos (n : Nat) : Nat := countTwos n.log2 n

/-- The real `man / den · 2^exp`, in the one form equal reals share. -/
def exactReal (man : Int) (den : Nat) (exp : Int) : ExactReal :=
  let n := man.natAbs / Nat.gcd man.natAbs den
  let d := den / Nat.gcd man.natAbs den
  { neg := decide (man < 0), num := n / 2 ^ twos n, den := d / 2 ^ twos d, exp := exp + twos n - twos d }

/-- The code word with a sign, an exponent field and a fraction field. -/
def fpCode (w : Nat) (neg : Bool) (e f : Nat) : BitVec w :=
  BitVec.ofNat w ((if neg then 2 ^ (fpExpBits w + fpFracBits w) else 0) + e * 2 ^ fpFracBits w + f)

/-- The only encoding whose value can be the real r, normal or subnormal by the size of r; none when r has too many
significant bits or is out of the fields' range. -/
def fpCandidate (w : Nat) (r : ExactReal) : Option (BitVec w) :=
  let f := fpFracBits w
  let top : Int := r.exp + r.num.log2
  if r.den ≠ 1 ∨ f < r.num.log2 then none
  else if 1 - fpBias w ≤ top then
    if top + fpBias w < 2 ^ fpExpBits w then
      some (fpCode w r.neg (top + fpBias w).toNat (r.num * 2 ^ (f - r.num.log2) - 2 ^ f))
    else none
  else if 1 - fpBias w - f ≤ r.exp then some (fpCode w r.neg 0 (r.num * 2 ^ (r.exp - (1 - fpBias w - f)).toNat))
  else none

/-- `FpRound(fmt, r)` (R252): the encoding of r when r is exactly representable, and otherwise a free value (log
entry 13). -/
def fpRound (p : Impl) (w : Nat) (r : ExactReal) : BitVec w :=
  match fpCandidate w r with
  | some e => if fpClass p e = .finite then e else Config.fpRoundInexact w r
  | none => Config.fpRoundInexact w r

/-- Deliver the real `man / den · 2^exp`: rounded when nonzero, and the special result `z` when it is 0 (R254). -/
def fpDeliver (p : Impl) (w : Nat) (man : Int) (den : Nat) (exp : Int) (z : BitVec w) : BitVec w :=
  if man = 0 then z else fpRound p w (exactReal man den exp)

/-- FpNarrow and FpWiden (R256): convert to the format of width w; zero, infinity and NaN go to FpSpecial of `op`. -/
def fpConvert (p : Impl) (op : FpOp) (w : Nat) {v : Nat} (x : BitVec v) : BitVec w :=
  if fpClass p x = .finite then fpDeliver p w (fpVal x).man 1 (fpVal x).exp (Config.fpSpecial op w x x)
  else Config.fpSpecial op w x x

/-! ### Order of extended reals (R262, R264, D11) -/

/-- x < y for encodings that are not NaN, infinities as extended reals. -/
def fpLt (p : Impl) {w : Nat} (x y : BitVec w) : Bool :=
  match fpClass p x, fpClass p y with
  | .finite, .finite => (fpVal x).lt (fpVal y)
  | .inf, .inf => fpSign x && !fpSign y
  | .inf, .finite => fpSign x
  | .finite, .inf => !fpSign y
  | .nan, _ => false
  | .finite, .nan => false
  | .inf, .nan => false

/-- x = y as extended reals; false when either is a NaN. -/
def fpEq (p : Impl) {w : Nat} (x y : BitVec w) : Bool :=
  match fpClass p x, fpClass p y with
  | .finite, .finite => (fpVal x).eq (fpVal y)
  | .inf, .inf => fpSign x == fpSign y
  | .inf, .finite => false
  | .finite, .inf => false
  | .nan, _ => false
  | .finite, .nan => false
  | .inf, .nan => false

/-! ### Clamping and scaling to integers (R8, R274 to R277) -/

/-- `sat(x, n)`: clamp to [-2^(n-1), 2^(n-1) - 1] (R8). -/
def sat (x : Int) (n : Nat) : Int := max (-(2 ^ (n - 1))) (min x (2 ^ (n - 1) - 1))

/-- `satu(x, n)`: clamp to [0, 2^n - 1] (R8). -/
def satu (x : Int) (n : Nat) : Int := max 0 (min x (2 ^ n - 1))

/-- Beyond this power of two every scaled value saturates, or truncates and rounds to 0 (log entry 21). -/
def scaleCap : Nat := 64

/-- `trunc(x × 2^k)` (R8, R274), the power of two capped at `scaleCap`. -/
def FpVal.truncScaled (x : FpVal) (k : Int) : Int :=
  if 0 ≤ x.exp + k then x.man * 2 ^ min (x.exp + k).toNat scaleCap
  else x.man.tdiv (2 ^ min (-(x.exp + k)).toNat scaleCap)

/-- `round(x × 2^k)`, halfway cases away from zero (R8, R276), the power of two capped at `scaleCap`. -/
def FpVal.roundScaled (x : FpVal) (k : Int) : Int :=
  if 0 ≤ x.exp + k then x.man * 2 ^ min (x.exp + k).toNat scaleCap
  else (x.man + x.man.sign * 2 ^ (min (-(x.exp + k)).toNat scaleCap - 1)).tdiv
    (2 ^ min (-(x.exp + k)).toNat scaleCap)

end Sys2Proof.Machine
end

