-- ==== Sys2Proof/Machine/Float.lean ====
section
/-! DEFINITION. Floating-point instructions (R257 to R277). -/

namespace Sys2Proof.Machine

/-- Both operands are finite (R254). -/
def bothFinite (p : Impl) {w : Nat} (b c : BitVec w) : Bool := fpClass p b == .finite && fpClass p c == .finite

/-- FADD (R258): float(b) + float(c). -/
def faddSlice (p : Impl) : SliceFn := fun w _ b c =>
  if bothFinite p b c then
    fpDeliver p w ((fpVal b).add (fpVal c)).man 1 ((fpVal b).add (fpVal c)).exp (Config.fpSpecial .fadd w b c)
  else Config.fpSpecial .fadd w b c

/-- FSUB (R259): float(b) - float(c). -/
def fsubSlice (p : Impl) : SliceFn := fun w _ b c =>
  if bothFinite p b c then
    fpDeliver p w ((fpVal b).sub (fpVal c)).man 1 ((fpVal b).sub (fpVal c)).exp (Config.fpSpecial .fsub w b c)
  else Config.fpSpecial .fsub w b c

/-- FMUL (R260): float(b) × float(c). -/
def fmulSlice (p : Impl) : SliceFn := fun w _ b c =>
  if bothFinite p b c then
    fpDeliver p w ((fpVal b).mul (fpVal c)).man 1 ((fpVal b).mul (fpVal c)).exp (Config.fpSpecial .fmul w b c)
  else Config.fpSpecial .fmul w b c

/-- FDIV (R261): float(b) / float(c), the divisor not zero. -/
def fdivSlice (p : Impl) : SliceFn := fun w _ b c =>
  if bothFinite p b c && (fpVal c).man != 0 then
    fpDeliver p w ((fpVal b).man * (fpVal c).man.sign) (fpVal c).man.natAbs ((fpVal b).exp - (fpVal c).exp)
      (Config.fpSpecial .fdiv w b c)
  else Config.fpSpecial .fdiv w b c

/-- FMIN (R262): the smaller operand; equal values with different encodings and NaN are special. -/
def fminSlice (p : Impl) : SliceFn := fun w _ b c =>
  if fpIsNan p b || fpIsNan p c then Config.fpSpecial .fmin w b c
  else if fpLt p b c then b
  else if fpLt p c b then c
  else if b = c then b
  else Config.fpSpecial .fmin w b c

/-- FMAX (R263): the larger operand; equal values with different encodings and NaN are special. -/
def fmaxSlice (p : Impl) : SliceFn := fun w _ b c =>
  if fpIsNan p b || fpIsNan p c then Config.fpSpecial .fmax w b c
  else if fpLt p c b then b
  else if fpLt p b c then c
  else if b = c then b
  else Config.fpSpecial .fmax w b c

/-- FSEQ (R265). -/
def fseqSlice (p : Impl) : SliceFn := fun w _ b c => mask w (fpEq p b c)

/-- FSNE (R266): the complement of FSEQ. -/
def fsneSlice (p : Impl) : SliceFn := fun w _ b c => mask w (!fpEq p b c)

/-- FSLT (R267). -/
def fsltSlice (p : Impl) : SliceFn := fun w _ b c => mask w (fpLt p b c)

/-- FSLE (R268). -/
def fsleSlice (p : Impl) : SliceFn := fun w _ b c => mask w (fpLt p b c || fpEq p b c)

/-- FSUNORD (R269). -/
def fsunordSlice (p : Impl) : SliceFn := fun w _ b c => mask w (fpIsNan p b || fpIsNan p c)

/-- FSORD (R270). -/
def fsordSlice (p : Impl) : SliceFn := fun w _ b c => mask w (!fpIsNan p b && !fpIsNan p c)

/-- ITOF (R272): int(b) × 2^(-int(c)), rounded once; zero is special. -/
def itofSlice (p : Impl) : SliceFn := fun w _ b c =>
  fpDeliver p w b.toInt 1 (-c.toInt) (Config.fpSpecial .itof w b c)

/-- UTOF (R273): uint(b) × 2^(-int(c)), rounded once; zero is special. -/
def utofSlice (p : Impl) : SliceFn := fun w _ b c =>
  fpDeliver p w b.toNat 1 (-c.toInt) (Config.fpSpecial .utof w b c)

/-- Conversion to an integer: `clamp` of the integer `conv` of a finite value, the limits for infinities (D13), a
special result for NaN (R274 to R277). -/
def fpToInt (p : Impl) (op : FpOp) (clamp : Int → Int) (lo hi : Int) (conv : FpVal → Int → Int) : SliceFn :=
  fun w _ b c =>
    match fpClass p b with
    | .finite => BitVec.ofInt w (clamp (conv (fpVal b) c.toInt))
    | .inf => BitVec.ofInt w (if fpSign b then lo else hi)
    | .nan => Config.fpSpecial op w b c

/-- FTOI (R274). -/
def ftoiSlice (p : Impl) : SliceFn := fun w =>
  fpToInt p .ftoi (fun x => sat x w) (-(2 ^ (w - 1))) (2 ^ (w - 1) - 1) FpVal.truncScaled w

/-- FTOU (R275). -/
def ftouSlice (p : Impl) : SliceFn := fun w =>
  fpToInt p .ftou (fun x => satu x w) 0 (2 ^ w - 1) FpVal.truncScaled w

/-- FTOIR (R276). -/
def ftoirSlice (p : Impl) : SliceFn := fun w =>
  fpToInt p .ftoir (fun x => sat x w) (-(2 ^ (w - 1))) (2 ^ (w - 1) - 1) FpVal.roundScaled w

/-- FTOUR (R277). -/
def ftourSlice (p : Impl) : SliceFn := fun w =>
  fpToInt p .ftour (fun x => satu x w) 0 (2 ^ w - 1) FpVal.roundScaled w

/-- FADD, format B (R258): sum. -/
def execFadd (v : VMode) (t : Packing) (a b c : Reg) (s : State) : Result :=
  runElems (.fadd v t a b c) v a b (.reg c) (slices t (faddSlice s.impl)) s

/-- FSUB, format B (R259): b minus c. -/
def execFsub (v : VMode) (t : Packing) (a b c : Reg) (s : State) : Result :=
  runElems (.fsub v t a b c) v a b (.reg c) (slices t (fsubSlice s.impl)) s

/-- FMUL, format B (R260): product. -/
def execFmul (v : VMode) (t : Packing) (a b c : Reg) (s : State) : Result :=
  runElems (.fmul v t a b c) v a b (.reg c) (slices t (fmulSlice s.impl)) s

/-- FDIV, format B (R261): quotient. -/
def execFdiv (v : VMode) (t : Packing) (a b c : Reg) (s : State) : Result :=
  runElems (.fdiv v t a b c) v a b (.reg c) (slices t (fdivSlice s.impl)) s

/-- FMIN, format B (R262): minimum. -/
def execFmin (v : VMode) (t : Packing) (a b c : Reg) (s : State) : Result :=
  runElems (.fmin v t a b c) v a b (.reg c) (slices t (fminSlice s.impl)) s

/-- FMAX, format B (R263): maximum. -/
def execFmax (v : VMode) (t : Packing) (a b c : Reg) (s : State) : Result :=
  runElems (.fmax v t a b c) v a b (.reg c) (slices t (fmaxSlice s.impl)) s

/-- FSEQ, format B (R265): set if equal. -/
def execFseq (v : VMode) (t : Packing) (a b c : Reg) (s : State) : Result :=
  runElems (.fseq v t a b c) v a b (.reg c) (slices t (fseqSlice s.impl)) s

/-- FSNE, format B (R266): set if not equal. -/
def execFsne (v : VMode) (t : Packing) (a b c : Reg) (s : State) : Result :=
  runElems (.fsne v t a b c) v a b (.reg c) (slices t (fsneSlice s.impl)) s

/-- FSLT, format B (R267): set if less than. -/
def execFslt (v : VMode) (t : Packing) (a b c : Reg) (s : State) : Result :=
  runElems (.fslt v t a b c) v a b (.reg c) (slices t (fsltSlice s.impl)) s

/-- FSLE, format B (R268): set if less than or equal. -/
def execFsle (v : VMode) (t : Packing) (a b c : Reg) (s : State) : Result :=
  runElems (.fsle v t a b c) v a b (.reg c) (slices t (fsleSlice s.impl)) s

/-- FSUNORD, format B (R269): set if unordered. -/
def execFsunord (v : VMode) (t : Packing) (a b c : Reg) (s : State) : Result :=
  runElems (.fsunord v t a b c) v a b (.reg c) (slices t (fsunordSlice s.impl)) s

/-- FSORD, format B (R270): set if ordered. -/
def execFsord (v : VMode) (t : Packing) (a b c : Reg) (s : State) : Result :=
  runElems (.fsord v t a b c) v a b (.reg c) (slices t (fsordSlice s.impl)) s

/-- ITOF, format B (R272): from a signed integer. -/
def execItof (v : VMode) (t : Packing) (a b c : Reg) (s : State) : Result :=
  runElems (.itof v t a b c) v a b (.reg c) (slices t (itofSlice s.impl)) s

/-- UTOF, format B (R273): from an unsigned integer. -/
def execUtof (v : VMode) (t : Packing) (a b c : Reg) (s : State) : Result :=
  runElems (.utof v t a b c) v a b (.reg c) (slices t (utofSlice s.impl)) s

/-- FTOI, format B (R274): to a signed integer, truncating. -/
def execFtoi (v : VMode) (t : Packing) (a b c : Reg) (s : State) : Result :=
  runElems (.ftoi v t a b c) v a b (.reg c) (slices t (ftoiSlice s.impl)) s

/-- FTOU, format B (R275): to an unsigned integer, truncating. -/
def execFtou (v : VMode) (t : Packing) (a b c : Reg) (s : State) : Result :=
  runElems (.ftou v t a b c) v a b (.reg c) (slices t (ftouSlice s.impl)) s

/-- FTOIR, format B (R276): to a signed integer, rounding. -/
def execFtoir (v : VMode) (t : Packing) (a b c : Reg) (s : State) : Result :=
  runElems (.ftoir v t a b c) v a b (.reg c) (slices t (ftoirSlice s.impl)) s

/-- FTOUR, format B (R277): to an unsigned integer, rounding. -/
def execFtour (v : VMode) (t : Packing) (a b c : Reg) (s : State) : Result :=
  runElems (.ftour v t a b c) v a b (.reg c) (slices t (ftourSlice s.impl)) s

end Sys2Proof.Machine
end

