-- ==== Sys2Proof/Machine/LoadStore.lean ====
section
/-! DEFINITION. Load and store instructions (R150 to R164). -/

namespace Sys2Proof.Machine

/-- LDB, format B (R153): load a byte, sign-extended. -/
def execLdb (v : VMode) (t : Scale) (a b c : Reg) (s : State) : Result :=
  runLoad (.ldb v t a b c) v a b (.reg c) (Scale.factor t) 1 (fun x => x.signExtend 32) s

/-- LDB, format C (R153, R78): load a byte, sign-extended. -/
def execLdbI (v : VBit) (a b : Reg) (im : BitVec 15) (s : State) : Result :=
  runLoad (.ldbI v a b im) v.mode a b (.imm (immI15 im)) 1 1 (fun x => x.signExtend 32) s

/-- LDH, format B (R154): load a half-word, sign-extended. -/
def execLdh (v : VMode) (t : Scale) (a b c : Reg) (s : State) : Result :=
  runLoad (.ldh v t a b c) v a b (.reg c) (Scale.factor t) 2 (fun x => x.signExtend 32) s

/-- LDH, format C (R154, R78): load a half-word, sign-extended. -/
def execLdhI (v : VBit) (a b : Reg) (im : BitVec 15) (s : State) : Result :=
  runLoad (.ldhI v a b im) v.mode a b (.imm (immI15 im)) 1 2 (fun x => x.signExtend 32) s

/-- LDW, format B (R155): load a word. -/
def execLdw (v : VMode) (t : Scale) (a b c : Reg) (s : State) : Result :=
  runLoad (.ldw v t a b c) v a b (.reg c) (Scale.factor t) 4 (fun x => x.setWidth 32) s

/-- LDW, format C (R155, R78): load a word. -/
def execLdwI (v : VBit) (a b : Reg) (im : BitVec 15) (s : State) : Result :=
  runLoad (.ldwI v a b im) v.mode a b (.imm (immI15 im)) 1 4 (fun x => x.setWidth 32) s

/-- LDUB, format B (R156): load a byte, zero-extended. -/
def execLdub (v : VMode) (t : Scale) (a b c : Reg) (s : State) : Result :=
  runLoad (.ldub v t a b c) v a b (.reg c) (Scale.factor t) 1 (fun x => x.setWidth 32) s

/-- LDUB, format C (R156, R78): load a byte, zero-extended. -/
def execLdubI (v : VBit) (a b : Reg) (im : BitVec 15) (s : State) : Result :=
  runLoad (.ldubI v a b im) v.mode a b (.imm (immI15 im)) 1 1 (fun x => x.setWidth 32) s

/-- LDUH, format B (R157): load a half-word, zero-extended. -/
def execLduh (v : VMode) (t : Scale) (a b c : Reg) (s : State) : Result :=
  runLoad (.lduh v t a b c) v a b (.reg c) (Scale.factor t) 2 (fun x => x.setWidth 32) s

/-- LDUH, format C (R157, R78): load a half-word, zero-extended. -/
def execLduhI (v : VBit) (a b : Reg) (im : BitVec 15) (s : State) : Result :=
  runLoad (.lduhI v a b im) v.mode a b (.imm (immI15 im)) 1 2 (fun x => x.setWidth 32) s

/-- LDEA, format B (R158): the effective address itself. -/
def execLdea (v : VMode) (t : Scale) (a b c : Reg) (s : State) : Result :=
  runLdea (.ldea v t a b c) v a b (.reg c) (Scale.factor t) s

/-- LDEA, format C (R158, R78): the effective address itself. -/
def execLdeaI (v : VBit) (a b : Reg) (im : BitVec 15) (s : State) : Result :=
  runLdea (.ldeaI v a b im) v.mode a b (.imm (immI15 im)) 1 s

/-- STB, format B (R159): store the low byte. -/
def execStb (v : VMode) (t : Scale) (a b c : Reg) (s : State) : Result :=
  runStore (.stb v t a b c) v a b (.reg c) (Scale.factor t) 1 s

/-- STB, format C (R159, R78): store the low byte. -/
def execStbI (v : VBit) (a b : Reg) (im : BitVec 15) (s : State) : Result :=
  runStore (.stbI v a b im) v.mode a b (.imm (immI15 im)) 1 1 s

/-- STH, format B (R160): store the low half-word. -/
def execSth (v : VMode) (t : Scale) (a b c : Reg) (s : State) : Result :=
  runStore (.sth v t a b c) v a b (.reg c) (Scale.factor t) 2 s

/-- STH, format C (R160, R78): store the low half-word. -/
def execSthI (v : VBit) (a b : Reg) (im : BitVec 15) (s : State) : Result :=
  runStore (.sthI v a b im) v.mode a b (.imm (immI15 im)) 1 2 s

/-- STW, format B (R161): store the word. -/
def execStw (v : VMode) (t : Scale) (a b c : Reg) (s : State) : Result :=
  runStore (.stw v t a b c) v a b (.reg c) (Scale.factor t) 4 s

/-- STW, format C (R161, R78): store the word. -/
def execStwI (v : VBit) (a b : Reg) (im : BitVec 15) (s : State) : Result :=
  runStore (.stwI v a b im) v.mode a b (.imm (immI15 im)) 1 4 s

/-- LDWPC (R162): load the word at pc plus the immediate. -/
def execLdwpc (a : Reg) (im : BitVec 21) (s : State) : Result :=
  gated (.ldwpc a im) s (checkAccess s (s.pc + immI21X4 im) 4 .read
    (.next (s.setReg a ((s.memRead (s.pc + immI21X4 im) 4).setWidth 32)).advance))

/-- STWPC (R163): store a word at pc plus the immediate. -/
def execStwpc (a : Reg) (im : BitVec 21) (s : State) : Result :=
  gated (.stwpc a im) s (checkAccess s (s.pc + immI21X4 im) 4 .write
    (.next (s.memWrite (s.pc + immI21X4 im) 4 (s.reg a)).advance))

/-- LDI (R164): load the immediate. -/
def execLdi (a : Reg) (im : BitVec 21) (s : State) : Result :=
  gated (.ldi a im) s (.next (s.setReg a (immI21HL im)).advance)

end Sys2Proof.Machine
end

