-- ==== Sys2Proof/Machine/Logic.lean ====
section
/-! DEFINITION. Bitwise logic instructions (R215 to R219). -/

namespace Sys2Proof.Machine

/-- Operand b of AND, OR and XOR, complemented by `.NP` and `.NN` (R215). -/
def Negate.onB (t : Negate) (b : Word) : Word :=
  match t with
  | .pp => b
  | .pn => b
  | .np => ~~~b
  | .nn => ~~~b

/-- Operand c of AND, OR and XOR, complemented by `.PN` and `.NN` (R215). -/
def Negate.onC (t : Negate) (c : Word) : Word :=
  match t with
  | .pp => c
  | .pn => ~~~c
  | .np => c
  | .nn => ~~~c

/-- Bits of x where m is one, of y where m is zero. -/
def bitSelect (m x y : Word) : Word := (x &&& m) ||| (y &&& ~~~m)

/-- AND (R216). -/
def andWord (t : Negate) (_a b c : Word) : Word := Negate.onB t b &&& Negate.onC t c

/-- OR (R217). -/
def orWord (t : Negate) (_a b c : Word) : Word := Negate.onB t b ||| Negate.onC t c

/-- XOR (R218). -/
def xorWord (t : Negate) (_a b c : Word) : Word := Negate.onB t b ^^^ Negate.onC t c

/-- SEL (R219): the selector, the if-one and the if-zero operand by T. -/
def selWord (t : SelPerm) (a b c : Word) : Word :=
  match t with
  | .p123 => bitSelect a b c
  | .p132 => bitSelect a c b
  | .p213 => bitSelect b a c
  | .p231 => bitSelect b c a

/-- AND, format B (R216): bitwise and. -/
def execAnd (v : VMode) (t : Negate) (a b c : Reg) (s : State) : Result :=
  runElems (.and v t a b c) v a b (.reg c) (andWord t) s

/-- AND, format C (R216, R215, R79): bitwise and, as T = 00. -/
def execAndI (v : VBit) (a b : Reg) (im : BitVec 15) (s : State) : Result :=
  runElems (.andI v a b im) v.mode a b (.imm (immI15HL im)) (andWord .pp) s

/-- OR, format B (R217): bitwise or. -/
def execOr (v : VMode) (t : Negate) (a b c : Reg) (s : State) : Result :=
  runElems (.or v t a b c) v a b (.reg c) (orWord t) s

/-- OR, format C (R217, R215, R79): bitwise or, as T = 00. -/
def execOrI (v : VBit) (a b : Reg) (im : BitVec 15) (s : State) : Result :=
  runElems (.orI v a b im) v.mode a b (.imm (immI15HL im)) (orWord .pp) s

/-- XOR, format B (R218): bitwise exclusive or. -/
def execXor (v : VMode) (t : Negate) (a b c : Reg) (s : State) : Result :=
  runElems (.xor v t a b c) v a b (.reg c) (xorWord t) s

/-- XOR, format C (R218, R215, R79): bitwise exclusive or, as T = 00. -/
def execXorI (v : VBit) (a b : Reg) (im : BitVec 15) (s : State) : Result :=
  runElems (.xorI v a b im) v.mode a b (.imm (immI15HL im)) (xorWord .pp) s

/-- SEL, format B (R219): bitwise select. -/
def execSel (v : VMode) (t : SelPerm) (a b c : Reg) (s : State) : Result :=
  runElems (.sel v t a b c) v a b (.reg c) (selWord t) s

/-- SEL, format C (R219, R215, R79): bitwise select, as T = 00. -/
def execSelI (v : VBit) (a b : Reg) (im : BitVec 15) (s : State) : Result :=
  runElems (.selI v a b im) v.mode a b (.imm (immI15HL im)) (selWord .p123) s

end Sys2Proof.Machine
end

