-- ==== Sys2Proof/Machine/Pack.lean ====
section
/-! DEFINITION. Packing and unpacking instructions (R290 to R299). -/

namespace Sys2Proof.Machine

/-- PACK (R291): (b << (bits/2)) | (c & ones(bits/2)). -/
def packSlice : SliceFn := fun w _ b c => b <<< (w / 2) ||| (c &&& lowOnes w (w / 2))

/-- PACKHI (R292): (b & ~ones(bits/2)) | (c >> (bits/2)). -/
def packhiSlice : SliceFn := fun w _ b c => (b &&& ~~~(lowOnes w (w / 2))) ||| c >>> (w / 2)

/-- PACKS (R293): both operands clamped as signed integers to half the width, then joined. -/
def packsSlice : SliceFn := fun w _ b c =>
  (BitVec.ofInt w (sat b.toInt (w / 2)) &&& lowOnes w (w / 2)) <<< (w / 2) |||
    (BitVec.ofInt w (sat c.toInt (w / 2)) &&& lowOnes w (w / 2))

/-- PACKSU (R294): both operands clamped as unsigned integers to half the width, then joined. -/
def packsuSlice : SliceFn := fun w _ b c =>
  BitVec.ofInt w (satu b.toNat (w / 2)) <<< (w / 2) ||| BitVec.ofInt w (satu c.toNat (w / 2))

/-- PACKHIR (R295): half the weight of the lowest kept bit is added, the sums clamped as signed, their upper halves
joined (D30). -/
def packhirSlice : SliceFn := fun w _ b c =>
  packhiSlice w 0#w (BitVec.ofInt w (sat (b.toInt + 2 ^ (w / 2 - 1)) w)) (BitVec.ofInt w (sat (c.toInt + 2 ^ (w / 2 - 1)) w))

/-- PACKHIUR (R296): as PACKHIR with unsigned operands. -/
def packhiurSlice : SliceFn := fun w _ b c =>
  packhiSlice w 0#w (BitVec.ofInt w (satu (b.toNat + 2 ^ (w / 2 - 1)) w)) (BitVec.ofInt w (satu (c.toNat + 2 ^ (w / 2 - 1)) w))

/-- FPACK (R299): both operands narrowed to half the width, then joined. -/
def fpackSlice (p : Impl) : SliceFn := fun w _ b c =>
  (fpConvert p .fpack (w / 2) b).setWidth w <<< (w / 2) ||| (fpConvert p .fpack (w / 2) c).setWidth w

/-- FUNPL (R297): the lower half of b widened. -/
def funplSlice (p : Impl) : SliceFn := fun w _ b _ => fpConvert p .funpl w (b.extractLsb' 0 (w / 2))

/-- FUNPH (R298): the upper half of b widened; its special results are those of FUNPL (R256). -/
def funphSlice (p : Impl) : SliceFn := fun w _ b _ => fpConvert p .funpl w (b.extractLsb' (w / 2) (w / 2))

/-- PACK, format B (R291): join the lower halves. -/
def execPack (v : VMode) (t : Packing) (a b c : Reg) (s : State) : Result :=
  runElems (.pack v t a b c) v a b (.reg c) (slices t packSlice) s

/-- PACKHI, format B (R292): join the upper halves. -/
def execPackhi (v : VMode) (t : Packing) (a b c : Reg) (s : State) : Result :=
  runElems (.packhi v t a b c) v a b (.reg c) (slices t packhiSlice) s

/-- PACKS, format B (R293): signed saturating pack. -/
def execPacks (v : VMode) (t : Packing) (a b c : Reg) (s : State) : Result :=
  runElems (.packs v t a b c) v a b (.reg c) (slices t packsSlice) s

/-- PACKSU, format B (R294): unsigned saturating pack. -/
def execPacksu (v : VMode) (t : Packing) (a b c : Reg) (s : State) : Result :=
  runElems (.packsu v t a b c) v a b (.reg c) (slices t packsuSlice) s

/-- PACKHIR, format B (R295): signed rounding pack of the upper halves. -/
def execPackhir (v : VMode) (t : Packing) (a b c : Reg) (s : State) : Result :=
  runElems (.packhir v t a b c) v a b (.reg c) (slices t packhirSlice) s

/-- PACKHIUR, format B (R296): unsigned rounding pack of the upper halves. -/
def execPackhiur (v : VMode) (t : Packing) (a b c : Reg) (s : State) : Result :=
  runElems (.packhiur v t a b c) v a b (.reg c) (slices t packhiurSlice) s

/-- FPACK, format B (R299): narrow and join two floating-point values. -/
def execFpack (v : VMode) (t : Packing) (a b c : Reg) (s : State) : Result :=
  runElems (.fpack v t a b c) v a b (.reg c) (slices t (fpackSlice s.impl)) s

/-- FUNPL, format A (R297): widen the lower half. -/
def execFunpl (v : VBit) (t : Packing) (a b : Reg) (s : State) : Result :=
  runElems (.funpl v t a b) v.mode a b .none (slices t (funplSlice s.impl)) s

/-- FUNPH, format A (R298): widen the upper half. -/
def execFunph (v : VBit) (t : Packing) (a b : Reg) (s : State) : Result :=
  runElems (.funph v t a b) v.mode a b .none (slices t (funphSlice s.impl)) s

end Sys2Proof.Machine
end

