-- ==== Sys2Proof/Machine/Saturating.lean ====
section
/-! DEFINITION. Saturating and halving arithmetic (R305 to R320). -/

namespace Sys2Proof.Machine

/-- ADDS (R306): sat(int(b) + int(c), bits). -/
def addsSlice : SliceFn := fun w _ b c => BitVec.ofInt w (sat (b.toInt + c.toInt) w)

/-- ADDSU (R307): satu(uint(b) + uint(c), bits). -/
def addsuSlice : SliceFn := fun w _ b c => BitVec.ofInt w (satu (b.toNat + c.toNat) w)

/-- SUBS (R308): sat(int(b) - int(c), bits). -/
def subsSlice : SliceFn := fun w _ b c => BitVec.ofInt w (sat (b.toInt - c.toInt) w)

/-- SUBSU (R309): satu(uint(b) - uint(c), bits). -/
def subsuSlice : SliceFn := fun w _ b c => BitVec.ofInt w (satu ((b.toNat : Int) - c.toNat) w)

/-- ADDH (R310): floor((int(b) + int(c)) / 2). -/
def addhSlice : SliceFn := fun w _ b c => BitVec.ofInt w ((b.toInt + c.toInt) / 2)

/-- ADDHU (R311): floor((uint(b) + uint(c)) / 2). -/
def addhuSlice : SliceFn := fun w _ b c => BitVec.ofInt w (((b.toNat : Int) + c.toNat) / 2)

/-- ADDHR (R312): floor((int(b) + int(c) + 1) / 2). -/
def addhrSlice : SliceFn := fun w _ b c => BitVec.ofInt w ((b.toInt + c.toInt + 1) / 2)

/-- ADDHUR (R313): floor((uint(b) + uint(c) + 1) / 2). -/
def addhurSlice : SliceFn := fun w _ b c => BitVec.ofInt w (((b.toNat : Int) + c.toNat + 1) / 2)

/-- SUBH (R314): floor((int(b) - int(c)) / 2). -/
def subhSlice : SliceFn := fun w _ b c => BitVec.ofInt w ((b.toInt - c.toInt) / 2)

/-- SUBHU (R315): floor((uint(b) - uint(c)) / 2). -/
def subhuSlice : SliceFn := fun w _ b c => BitVec.ofInt w (((b.toNat : Int) - c.toNat) / 2)

/-- SUBHR (R316): floor((int(b) - int(c) + 1) / 2). -/
def subhrSlice : SliceFn := fun w _ b c => BitVec.ofInt w ((b.toInt - c.toInt + 1) / 2)

/-- SUBHUR (R317): floor((uint(b) - uint(c) + 1) / 2). -/
def subhurSlice : SliceFn := fun w _ b c => BitVec.ofInt w (((b.toNat : Int) - c.toNat + 1) / 2)

/-- MULQ (R319): sat((int(b) × int(c)) >>s (bits - 1), bits). -/
def mulqSlice : SliceFn := fun w _ b c => BitVec.ofInt w (sat (b.toInt * c.toInt / 2 ^ (w - 1)) w)

/-- MULQR (R320): sat((int(b) × int(c) + 2^(bits - 2)) >>s (bits - 1), bits). -/
def mulqrSlice : SliceFn := fun w _ b c => BitVec.ofInt w (sat ((b.toInt * c.toInt + 2 ^ (w - 2)) / 2 ^ (w - 1)) w)

/-- ADDS, format B (R306): sat(int(b) + int(c), bits). -/
def execAdds (v : VMode) (t : Packing) (a b c : Reg) (s : State) : Result :=
  runElems (.adds v t a b c) v a b (.reg c) (slices t addsSlice) s

/-- ADDSU, format B (R307): satu(uint(b) + uint(c), bits). -/
def execAddsu (v : VMode) (t : Packing) (a b c : Reg) (s : State) : Result :=
  runElems (.addsu v t a b c) v a b (.reg c) (slices t addsuSlice) s

/-- SUBS, format B (R308): sat(int(b) - int(c), bits). -/
def execSubs (v : VMode) (t : Packing) (a b c : Reg) (s : State) : Result :=
  runElems (.subs v t a b c) v a b (.reg c) (slices t subsSlice) s

/-- SUBSU, format B (R309): satu(uint(b) - uint(c), bits). -/
def execSubsu (v : VMode) (t : Packing) (a b c : Reg) (s : State) : Result :=
  runElems (.subsu v t a b c) v a b (.reg c) (slices t subsuSlice) s

/-- ADDH, format B (R310): floor((int(b) + int(c)) / 2). -/
def execAddh (v : VMode) (t : Packing) (a b c : Reg) (s : State) : Result :=
  runElems (.addh v t a b c) v a b (.reg c) (slices t addhSlice) s

/-- ADDHU, format B (R311): floor((uint(b) + uint(c)) / 2). -/
def execAddhu (v : VMode) (t : Packing) (a b c : Reg) (s : State) : Result :=
  runElems (.addhu v t a b c) v a b (.reg c) (slices t addhuSlice) s

/-- ADDHR, format B (R312): floor((int(b) + int(c) + 1) / 2). -/
def execAddhr (v : VMode) (t : Packing) (a b c : Reg) (s : State) : Result :=
  runElems (.addhr v t a b c) v a b (.reg c) (slices t addhrSlice) s

/-- ADDHUR, format B (R313): floor((uint(b) + uint(c) + 1) / 2). -/
def execAddhur (v : VMode) (t : Packing) (a b c : Reg) (s : State) : Result :=
  runElems (.addhur v t a b c) v a b (.reg c) (slices t addhurSlice) s

/-- SUBH, format B (R314): floor((int(b) - int(c)) / 2). -/
def execSubh (v : VMode) (t : Packing) (a b c : Reg) (s : State) : Result :=
  runElems (.subh v t a b c) v a b (.reg c) (slices t subhSlice) s

/-- SUBHU, format B (R315): floor((uint(b) - uint(c)) / 2). -/
def execSubhu (v : VMode) (t : Packing) (a b c : Reg) (s : State) : Result :=
  runElems (.subhu v t a b c) v a b (.reg c) (slices t subhuSlice) s

/-- SUBHR, format B (R316): floor((int(b) - int(c) + 1) / 2). -/
def execSubhr (v : VMode) (t : Packing) (a b c : Reg) (s : State) : Result :=
  runElems (.subhr v t a b c) v a b (.reg c) (slices t subhrSlice) s

/-- SUBHUR, format B (R317): floor((uint(b) - uint(c) + 1) / 2). -/
def execSubhur (v : VMode) (t : Packing) (a b c : Reg) (s : State) : Result :=
  runElems (.subhur v t a b c) v a b (.reg c) (slices t subhurSlice) s

/-- MULQ, format B (R319): sat((int(b) × int(c)) >>s (bits - 1), bits). -/
def execMulq (v : VMode) (t : Packing) (a b c : Reg) (s : State) : Result :=
  runElems (.mulq v t a b c) v a b (.reg c) (slices t mulqSlice) s

/-- MULQR, format B (R320): sat((int(b) × int(c) + 2^(bits - 2)) >>s (bits - 1), bits). -/
def execMulqr (v : VMode) (t : Packing) (a b c : Reg) (s : State) : Result :=
  runElems (.mulqr v t a b c) v a b (.reg c) (slices t mulqrSlice) s

end Sys2Proof.Machine
end

