-- ==== Sys2Proof/Machine/Dispatch.lean ====
section
/-! DEFINITION. One arm for each constructor of Instr, each a direct call of its meaning. -/

namespace Sys2Proof.Machine

def exec (i : Instr) (s : State) : Host.Outcome State Fault Refusal :=
  match i with
  | .clz v t a b => Sys2Proof.Machine.execClz v t a b s
  | .ctz v t a b => Sys2Proof.Machine.execCtz v t a b s
  | .clo v t a b => Sys2Proof.Machine.execClo v t a b s
  | .cto v t a b => Sys2Proof.Machine.execCto v t a b s
  | .popcnt v t a b => Sys2Proof.Machine.execPopcnt v t a b s
  | .rev v t a b => Sys2Proof.Machine.execRev v t a b s
  | .funpl v t a b => Sys2Proof.Machine.execFunpl v t a b s
  | .funph v t a b => Sys2Proof.Machine.execFunph v t a b s
  | .wait => Sys2Proof.Machine.execWait s
  | .sync => Sys2Proof.Machine.execSync s
  | .cctrl a b => Sys2Proof.Machine.execCctrl a b s
  | .crc32c v t a b => Sys2Proof.Machine.execCrc32c v t a b s
  | .crc32 v t a b => Sys2Proof.Machine.execCrc32 v t a b s
  | .stb v t a b c => Sys2Proof.Machine.execStb v t a b c s
  | .sth v t a b c => Sys2Proof.Machine.execSth v t a b c s
  | .stw v t a b c => Sys2Proof.Machine.execStw v t a b c s
  | .ldb v t a b c => Sys2Proof.Machine.execLdb v t a b c s
  | .ldh v t a b c => Sys2Proof.Machine.execLdh v t a b c s
  | .ldw v t a b c => Sys2Proof.Machine.execLdw v t a b c s
  | .ldub v t a b c => Sys2Proof.Machine.execLdub v t a b c s
  | .lduh v t a b c => Sys2Proof.Machine.execLduh v t a b c s
  | .ldea v t a b c => Sys2Proof.Machine.execLdea v t a b c s
  | .and v t a b c => Sys2Proof.Machine.execAnd v t a b c s
  | .or v t a b c => Sys2Proof.Machine.execOr v t a b c s
  | .xor v t a b c => Sys2Proof.Machine.execXor v t a b c s
  | .ebf v t a b c => Sys2Proof.Machine.execEbf v t a b c s
  | .ebfu v t a b c => Sys2Proof.Machine.execEbfu v t a b c s
  | .mkbf v t a b c => Sys2Proof.Machine.execMkbf v t a b c s
  | .add v t a b c => Sys2Proof.Machine.execAdd v t a b c s
  | .sub v t a b c => Sys2Proof.Machine.execSub v t a b c s
  | .min v t a b c => Sys2Proof.Machine.execMin v t a b c s
  | .max v t a b c => Sys2Proof.Machine.execMax v t a b c s
  | .minu v t a b c => Sys2Proof.Machine.execMinu v t a b c s
  | .maxu v t a b c => Sys2Proof.Machine.execMaxu v t a b c s
  | .seq v t a b c => Sys2Proof.Machine.execSeq v t a b c s
  | .sne v t a b c => Sys2Proof.Machine.execSne v t a b c s
  | .slt v t a b c => Sys2Proof.Machine.execSlt v t a b c s
  | .sltu v t a b c => Sys2Proof.Machine.execSltu v t a b c s
  | .sle v t a b c => Sys2Proof.Machine.execSle v t a b c s
  | .sleu v t a b c => Sys2Proof.Machine.execSleu v t a b c s
  | .shuf v a b c => Sys2Proof.Machine.execShuf v a b c s
  | .xchgsr a b c => Sys2Proof.Machine.execXchgsr a b c s
  | .mul v t a b c => Sys2Proof.Machine.execMul v t a b c s
  | .div v t a b c => Sys2Proof.Machine.execDiv v t a b c s
  | .divu v t a b c => Sys2Proof.Machine.execDivu v t a b c s
  | .rem v t a b c => Sys2Proof.Machine.execRem v t a b c s
  | .remu v t a b c => Sys2Proof.Machine.execRemu v t a b c s
  | .madd v t a b c => Sys2Proof.Machine.execMadd v t a b c s
  | .sel v t a b c => Sys2Proof.Machine.execSel v t a b c s
  | .ibf v t a b c => Sys2Proof.Machine.execIbf v t a b c s
  | .mulhi v t a b c => Sys2Proof.Machine.execMulhi v t a b c s
  | .mulhiu v t a b c => Sys2Proof.Machine.execMulhiu v t a b c s
  | .mulq v t a b c => Sys2Proof.Machine.execMulq v t a b c s
  | .mulqr v t a b c => Sys2Proof.Machine.execMulqr v t a b c s
  | .pack v t a b c => Sys2Proof.Machine.execPack v t a b c s
  | .packs v t a b c => Sys2Proof.Machine.execPacks v t a b c s
  | .packsu v t a b c => Sys2Proof.Machine.execPacksu v t a b c s
  | .packhi v t a b c => Sys2Proof.Machine.execPackhi v t a b c s
  | .packhir v t a b c => Sys2Proof.Machine.execPackhir v t a b c s
  | .packhiur v t a b c => Sys2Proof.Machine.execPackhiur v t a b c s
  | .fmin v t a b c => Sys2Proof.Machine.execFmin v t a b c s
  | .fmax v t a b c => Sys2Proof.Machine.execFmax v t a b c s
  | .fseq v t a b c => Sys2Proof.Machine.execFseq v t a b c s
  | .fsne v t a b c => Sys2Proof.Machine.execFsne v t a b c s
  | .fslt v t a b c => Sys2Proof.Machine.execFslt v t a b c s
  | .fsle v t a b c => Sys2Proof.Machine.execFsle v t a b c s
  | .fsunord v t a b c => Sys2Proof.Machine.execFsunord v t a b c s
  | .fsord v t a b c => Sys2Proof.Machine.execFsord v t a b c s
  | .itof v t a b c => Sys2Proof.Machine.execItof v t a b c s
  | .utof v t a b c => Sys2Proof.Machine.execUtof v t a b c s
  | .ftoi v t a b c => Sys2Proof.Machine.execFtoi v t a b c s
  | .ftou v t a b c => Sys2Proof.Machine.execFtou v t a b c s
  | .ftoir v t a b c => Sys2Proof.Machine.execFtoir v t a b c s
  | .ftour v t a b c => Sys2Proof.Machine.execFtour v t a b c s
  | .fpack v t a b c => Sys2Proof.Machine.execFpack v t a b c s
  | .fadd v t a b c => Sys2Proof.Machine.execFadd v t a b c s
  | .fsub v t a b c => Sys2Proof.Machine.execFsub v t a b c s
  | .fmul v t a b c => Sys2Proof.Machine.execFmul v t a b c s
  | .fdiv v t a b c => Sys2Proof.Machine.execFdiv v t a b c s
  | .adds v t a b c => Sys2Proof.Machine.execAdds v t a b c s
  | .addsu v t a b c => Sys2Proof.Machine.execAddsu v t a b c s
  | .addh v t a b c => Sys2Proof.Machine.execAddh v t a b c s
  | .addhu v t a b c => Sys2Proof.Machine.execAddhu v t a b c s
  | .addhr v t a b c => Sys2Proof.Machine.execAddhr v t a b c s
  | .addhur v t a b c => Sys2Proof.Machine.execAddhur v t a b c s
  | .subs v t a b c => Sys2Proof.Machine.execSubs v t a b c s
  | .subsu v t a b c => Sys2Proof.Machine.execSubsu v t a b c s
  | .subh v t a b c => Sys2Proof.Machine.execSubh v t a b c s
  | .subhu v t a b c => Sys2Proof.Machine.execSubhu v t a b c s
  | .subhr v t a b c => Sys2Proof.Machine.execSubhr v t a b c s
  | .subhur v t a b c => Sys2Proof.Machine.execSubhur v t a b c s
  | .stbI v a b im => Sys2Proof.Machine.execStbI v a b im s
  | .sthI v a b im => Sys2Proof.Machine.execSthI v a b im s
  | .stwI v a b im => Sys2Proof.Machine.execStwI v a b im s
  | .ldbI v a b im => Sys2Proof.Machine.execLdbI v a b im s
  | .ldhI v a b im => Sys2Proof.Machine.execLdhI v a b im s
  | .ldwI v a b im => Sys2Proof.Machine.execLdwI v a b im s
  | .ldubI v a b im => Sys2Proof.Machine.execLdubI v a b im s
  | .lduhI v a b im => Sys2Proof.Machine.execLduhI v a b im s
  | .ldeaI v a b im => Sys2Proof.Machine.execLdeaI v a b im s
  | .andI v a b im => Sys2Proof.Machine.execAndI v a b im s
  | .orI v a b im => Sys2Proof.Machine.execOrI v a b im s
  | .xorI v a b im => Sys2Proof.Machine.execXorI v a b im s
  | .ebfI v a b im => Sys2Proof.Machine.execEbfI v a b im s
  | .ebfuI v a b im => Sys2Proof.Machine.execEbfuI v a b im s
  | .mkbfI v a b im => Sys2Proof.Machine.execMkbfI v a b im s
  | .addI v a b im => Sys2Proof.Machine.execAddI v a b im s
  | .subI v a b im => Sys2Proof.Machine.execSubI v a b im s
  | .minI v a b im => Sys2Proof.Machine.execMinI v a b im s
  | .maxI v a b im => Sys2Proof.Machine.execMaxI v a b im s
  | .minuI v a b im => Sys2Proof.Machine.execMinuI v a b im s
  | .maxuI v a b im => Sys2Proof.Machine.execMaxuI v a b im s
  | .seqI v a b im => Sys2Proof.Machine.execSeqI v a b im s
  | .sneI v a b im => Sys2Proof.Machine.execSneI v a b im s
  | .sltI v a b im => Sys2Proof.Machine.execSltI v a b im s
  | .sltuI v a b im => Sys2Proof.Machine.execSltuI v a b im s
  | .sleI v a b im => Sys2Proof.Machine.execSleI v a b im s
  | .sleuI v a b im => Sys2Proof.Machine.execSleuI v a b im s
  | .shufI v a b im => Sys2Proof.Machine.execShufI v a b im s
  | .xchgsrI a b im => Sys2Proof.Machine.execXchgsrI a b im s
  | .mulI v a b im => Sys2Proof.Machine.execMulI v a b im s
  | .divI v a b im => Sys2Proof.Machine.execDivI v a b im s
  | .divuI v a b im => Sys2Proof.Machine.execDivuI v a b im s
  | .remI v a b im => Sys2Proof.Machine.execRemI v a b im s
  | .remuI v a b im => Sys2Proof.Machine.execRemuI v a b im s
  | .maddI v a b im => Sys2Proof.Machine.execMaddI v a b im s
  | .selI v a b im => Sys2Proof.Machine.execSelI v a b im s
  | .ibfI v a b im => Sys2Proof.Machine.execIbfI v a b im s
  | .j a im => Sys2Proof.Machine.execJ a im s
  | .jl a im => Sys2Proof.Machine.execJl a im s
  | .ldwpc a im => Sys2Proof.Machine.execLdwpc a im s
  | .stwpc a im => Sys2Proof.Machine.execStwpc a im s
  | .addpc a im => Sys2Proof.Machine.execAddpc a im s
  | .addpchi a im => Sys2Proof.Machine.execAddpchi a im s
  | .ldi a im => Sys2Proof.Machine.execLdi a im s
  | .bz a im => Sys2Proof.Machine.execBz a im s
  | .bnz a im => Sys2Proof.Machine.execBnz a im s
  | .bs a im => Sys2Proof.Machine.execBs a im s
  | .bns a im => Sys2Proof.Machine.execBns a im s
  | .bltz a im => Sys2Proof.Machine.execBltz a im s
  | .bgez a im => Sys2Proof.Machine.execBgez a im s
  | .blez a im => Sys2Proof.Machine.execBlez a im s
  | .bgtz a im => Sys2Proof.Machine.execBgtz a im s

end Sys2Proof.Machine
end

