-- ==== Sys2Proof/Machine/Step.lean ====
section
/-! DEFINITION. One step of the machine (R137, R327, R366), and the placing of one instruction where the next step
fetches it. -/

namespace Sys2Proof.Machine

/-- Execute an instruction word: decode, then the instruction's meaning; a word that is no instruction raises
IllegalInstruction (R97, R137 (3)). -/
def stepWord (iw : Word) (s : State) : Result :=
  match decodeWord iw with
  | .ok i => exec i s
  | .error _ => .fault (.illegalInstruction iw s)

/-- One step: the host's Halt predicate, then a moment of standby, or fetch, decode and execute (R137, R327, R366). -/
def step (s : State) : Host.Outcome State Fault Refusal :=
  if s.halts then .refused (.halted s)
  else if s.standby then .next (standbyMoment s)
  else
    match fetchWord s with
    | .ok iw => stepWord iw s
    | .error f => .fault f

/-- Place one byte of an instruction image: its value, at the clean stage (R360). -/
def State.placeByte (s : State) (a : Word) (v : Byte) : State :=
  { s with mem := sparseSet unlistedByte s.mem a.toNat v, stages := sparseSet Stage.clean s.stages a.toNat .clean }

/-- Place bytes at consecutive addresses (R40). -/
def State.placeBytes (s : State) (a : Word) : List Byte → State
  | [] => s
  | v :: vs => (s.placeByte a v).placeBytes (a + 1#32) vs

/-- The state with the instruction whose bits are `w` at pc, clean and fetchable, and the processor running, so that
the next step runs it (log entry 6). -/
def State.withFetchWord (s : State) (nbits w : Nat) : State :=
  { s.placeBytes s.pc (bytesOfWord (BitVec.ofNat 32 (w % 2 ^ nbits))) with standby := false }

end Sys2Proof.Machine
end

