-- ==== Sys2Proof/Laws/Decode.lean ====
section
/-! SUPPORT. The layouts of the five formats read back: every field of a word put together by the encoder, the format
of that word, and its fixed bits (R71, R84). -/

namespace Sys2Proof

/-! ### The two-bit and one-bit fields -/

@[simp] theorem vmode_ofBits_bits (v : VMode) : VMode.ofBits v.bits = v := by cases v <;> rfl
@[simp] theorem vmode_bits_ofBits (x : BitVec 2) : (VMode.ofBits x).bits = x := by revert x; decide
@[simp] theorem vbit_ofBits_bits (v : VBit) : VBit.ofBits v.bits = v := by cases v <;> rfl
@[simp] theorem vbit_bits_ofBits (x : BitVec 1) : (VBit.ofBits x).bits = x := by revert x; decide
@[simp] theorem packing_ofBits_bits (t : Packing) : Packing.ofBits? t.bits = some t := by cases t <;> rfl
@[simp] theorem scale_ofBits_bits (t : Scale) : Scale.ofBits t.bits = t := by cases t <;> rfl
@[simp] theorem scale_bits_ofBits (x : BitVec 2) : (Scale.ofBits x).bits = x := by revert x; decide
@[simp] theorem negate_ofBits_bits (t : Negate) : Negate.ofBits t.bits = t := by cases t <;> rfl
@[simp] theorem negate_bits_ofBits (x : BitVec 2) : (Negate.ofBits x).bits = x := by revert x; decide
@[simp] theorem selPerm_ofBits_bits (t : SelPerm) : SelPerm.ofBits t.bits = t := by cases t <;> rfl
@[simp] theorem selPerm_bits_ofBits (x : BitVec 2) : (SelPerm.ofBits x).bits = x := by revert x; decide
@[simp] theorem crcWidth_ofBits_bits (t : CrcWidth) : CrcWidth.ofBits? t.bits = some t := by cases t <;> rfl

/-- A T value that is a packed data type is that type's bits. -/
theorem packing_bits_of_ofBits {x : BitVec 2} {t : Packing} (h : Packing.ofBits? x = some t) : t.bits = x := by
  revert x t; decide

/-- A T value that is a checksum width is that width's bits. -/
theorem crcWidth_bits_of_ofBits {x : BitVec 2} {t : CrcWidth} (h : CrcWidth.ofBits? x = some t) : t.bits = x := by
  revert x t; decide

/-! ### Format A -/

section FormatA

variable (op : BitVec 10) (v : BitVec 1) (t : BitVec 2) (a b : Reg)

theorem fmtA_op : (fmtA op v t a b).extractLsb' 26 2 ++ (fmtA op v t a b).extractLsb' 9 6 ++ (fmtA op v t a b).extractLsb' 0 2 = op := by
  apply BitVec.eq_of_getLsbD_eq
  intro i hi
  simp only [fmtA, BitVec.getLsbD_extractLsb', BitVec.getLsbD_append]
  interval_cases i <;> simp

theorem fmtA_v : (fmtA op v t a b).extractLsb' 15 1 = v := by
  apply BitVec.eq_of_getLsbD_eq
  intro i hi
  simp only [fmtA, BitVec.getLsbD_extractLsb', BitVec.getLsbD_append]
  interval_cases i <;> simp

theorem fmtA_t : (fmtA op v t a b).extractLsb' 7 2 = t := by
  apply BitVec.eq_of_getLsbD_eq
  intro i hi
  simp only [fmtA, BitVec.getLsbD_extractLsb', BitVec.getLsbD_append]
  interval_cases i <;> simp

theorem fmtA_a : (fmtA op v t a b).extractLsb' 21 5 = a := by
  apply BitVec.eq_of_getLsbD_eq
  intro i hi
  simp only [fmtA, BitVec.getLsbD_extractLsb', BitVec.getLsbD_append]
  interval_cases i <;> simp

theorem fmtA_b : (fmtA op v t a b).extractLsb' 16 5 = b := by
  apply BitVec.eq_of_getLsbD_eq
  intro i hi
  simp only [fmtA, BitVec.getLsbD_extractLsb', BitVec.getLsbD_append]
  interval_cases i <;> simp

theorem fmtA_mask_FC007E7F : fmtA op v t a b &&& 0xFC007E7F#32 = fmtA op 0#1 0#2 0#5 0#5 := by
  apply BitVec.eq_of_getLsbD_eq
  intro i hi
  simp only [fmtA, BitVec.getLsbD_and, BitVec.getLsbD_append]
  interval_cases i <;> simp

theorem fmtA_mask_FC00FFFF : fmtA op v t a b &&& 0xFC00FFFF#32 = fmtA op v t 0#5 0#5 := by
  apply BitVec.eq_of_getLsbD_eq
  intro i hi
  simp only [fmtA, BitVec.getLsbD_and, BitVec.getLsbD_append]
  interval_cases i <;> simp

end FormatA

/-! ### Format B -/

section FormatB

variable (op : BitVec 9) (v t : BitVec 2) (a b c : Reg)

theorem fmtB_op : (fmtB op v t a b c).extractLsb' 26 2 ++ (fmtB op v t a b c).extractLsb' 0 7 = op := by
  apply BitVec.eq_of_getLsbD_eq
  intro i hi
  simp only [fmtB, BitVec.getLsbD_extractLsb', BitVec.getLsbD_append]
  interval_cases i <;> simp

theorem fmtB_v : (fmtB op v t a b c).extractLsb' 14 2 = v := by
  apply BitVec.eq_of_getLsbD_eq
  intro i hi
  simp only [fmtB, BitVec.getLsbD_extractLsb', BitVec.getLsbD_append]
  interval_cases i <;> simp

theorem fmtB_t : (fmtB op v t a b c).extractLsb' 7 2 = t := by
  apply BitVec.eq_of_getLsbD_eq
  intro i hi
  simp only [fmtB, BitVec.getLsbD_extractLsb', BitVec.getLsbD_append]
  interval_cases i <;> simp

theorem fmtB_a : (fmtB op v t a b c).extractLsb' 21 5 = a := by
  apply BitVec.eq_of_getLsbD_eq
  intro i hi
  simp only [fmtB, BitVec.getLsbD_extractLsb', BitVec.getLsbD_append]
  interval_cases i <;> simp

theorem fmtB_b : (fmtB op v t a b c).extractLsb' 16 5 = b := by
  apply BitVec.eq_of_getLsbD_eq
  intro i hi
  simp only [fmtB, BitVec.getLsbD_extractLsb', BitVec.getLsbD_append]
  interval_cases i <;> simp

theorem fmtB_c : (fmtB op v t a b c).extractLsb' 9 5 = c := by
  apply BitVec.eq_of_getLsbD_eq
  intro i hi
  simp only [fmtB, BitVec.getLsbD_extractLsb', BitVec.getLsbD_append]
  interval_cases i <;> simp

theorem fmtB_mask_FC00007F : fmtB op v t a b c &&& 0xFC00007F#32 = fmtB op 0#2 0#2 0#5 0#5 0#5 := by
  apply BitVec.eq_of_getLsbD_eq
  intro i hi
  simp only [fmtB, BitVec.getLsbD_and, BitVec.getLsbD_append]
  interval_cases i <;> simp

theorem fmtB_mask_FC0001FF : fmtB op v t a b c &&& 0xFC0001FF#32 = fmtB op 0#2 t 0#5 0#5 0#5 := by
  apply BitVec.eq_of_getLsbD_eq
  intro i hi
  simp only [fmtB, BitVec.getLsbD_and, BitVec.getLsbD_append]
  interval_cases i <;> simp

theorem fmtB_mask_FC00C1FF : fmtB op v t a b c &&& 0xFC00C1FF#32 = fmtB op v t 0#5 0#5 0#5 := by
  apply BitVec.eq_of_getLsbD_eq
  intro i hi
  simp only [fmtB, BitVec.getLsbD_and, BitVec.getLsbD_append]
  interval_cases i <;> simp

end FormatB

/-! ### Format C -/

section FormatC

variable (op : BitVec 6) (v : BitVec 1) (a b : Reg) (im : BitVec 15)

theorem fmtC_op : (fmtC op v a b im).extractLsb' 26 6 = op := by
  apply BitVec.eq_of_getLsbD_eq
  intro i hi
  simp only [fmtC, BitVec.getLsbD_extractLsb', BitVec.getLsbD_append]
  interval_cases i <;> simp

theorem fmtC_v : (fmtC op v a b im).extractLsb' 15 1 = v := by
  apply BitVec.eq_of_getLsbD_eq
  intro i hi
  simp only [fmtC, BitVec.getLsbD_extractLsb', BitVec.getLsbD_append]
  interval_cases i <;> simp

theorem fmtC_a : (fmtC op v a b im).extractLsb' 21 5 = a := by
  apply BitVec.eq_of_getLsbD_eq
  intro i hi
  simp only [fmtC, BitVec.getLsbD_extractLsb', BitVec.getLsbD_append]
  interval_cases i <;> simp

theorem fmtC_b : (fmtC op v a b im).extractLsb' 16 5 = b := by
  apply BitVec.eq_of_getLsbD_eq
  intro i hi
  simp only [fmtC, BitVec.getLsbD_extractLsb', BitVec.getLsbD_append]
  interval_cases i <;> simp

theorem fmtC_im : (fmtC op v a b im).extractLsb' 0 15 = im := by
  apply BitVec.eq_of_getLsbD_eq
  intro i hi
  simp only [fmtC, BitVec.getLsbD_extractLsb', BitVec.getLsbD_append]
  interval_cases i <;> simp

theorem fmtC_mask_FC000000 : fmtC op v a b im &&& 0xFC000000#32 = fmtC op 0#1 0#5 0#5 0#15 := by
  apply BitVec.eq_of_getLsbD_eq
  intro i hi
  simp only [fmtC, BitVec.getLsbD_and, BitVec.getLsbD_append]
  interval_cases i <;> simp

theorem fmtC_mask_FC008000 : fmtC op v a b im &&& 0xFC008000#32 = fmtC op v 0#5 0#5 0#15 := by
  apply BitVec.eq_of_getLsbD_eq
  intro i hi
  simp only [fmtC, BitVec.getLsbD_and, BitVec.getLsbD_append]
  interval_cases i <;> simp

end FormatC

/-! ### Format D -/

section FormatD

variable (op : BitVec 3) (a : Reg) (im : BitVec 21)

theorem fmtD_op : (fmtD op a im).extractLsb' 26 3 = op := by
  apply BitVec.eq_of_getLsbD_eq
  intro i hi
  simp only [fmtD, BitVec.getLsbD_extractLsb', BitVec.getLsbD_append]
  interval_cases i <;> simp

theorem fmtD_a : (fmtD op a im).extractLsb' 21 5 = a := by
  apply BitVec.eq_of_getLsbD_eq
  intro i hi
  simp only [fmtD, BitVec.getLsbD_extractLsb', BitVec.getLsbD_append]
  interval_cases i <;> simp

theorem fmtD_im : (fmtD op a im).extractLsb' 0 21 = im := by
  apply BitVec.eq_of_getLsbD_eq
  intro i hi
  simp only [fmtD, BitVec.getLsbD_extractLsb', BitVec.getLsbD_append]
  interval_cases i <;> simp

theorem fmtD_mask_FC000000 : fmtD op a im &&& 0xFC000000#32 = fmtD op 0#5 0#21 := by
  apply BitVec.eq_of_getLsbD_eq
  intro i hi
  simp only [fmtD, BitVec.getLsbD_and, BitVec.getLsbD_append]
  interval_cases i <;> simp

end FormatD

/-! ### Format E -/

section FormatE

variable (op : BitVec 3) (a : Reg) (im : BitVec 18)

theorem fmtE_op : (fmtE op a im).extractLsb' 18 3 = op := by
  apply BitVec.eq_of_getLsbD_eq
  intro i hi
  simp only [fmtE, BitVec.getLsbD_extractLsb', BitVec.getLsbD_append]
  interval_cases i <;> simp

theorem fmtE_a : (fmtE op a im).extractLsb' 21 5 = a := by
  apply BitVec.eq_of_getLsbD_eq
  intro i hi
  simp only [fmtE, BitVec.getLsbD_extractLsb', BitVec.getLsbD_append]
  interval_cases i <;> simp

theorem fmtE_im : (fmtE op a im).extractLsb' 0 18 = im := by
  apply BitVec.eq_of_getLsbD_eq
  intro i hi
  simp only [fmtE, BitVec.getLsbD_extractLsb', BitVec.getLsbD_append]
  interval_cases i <;> simp

theorem fmtE_mask_FC1C0000 : fmtE op a im &&& 0xFC1C0000#32 = fmtE op 0#5 0#18 := by
  apply BitVec.eq_of_getLsbD_eq
  intro i hi
  simp only [fmtE, BitVec.getLsbD_and, BitVec.getLsbD_append]
  interval_cases i <;> simp

end FormatE

/-! ### The format of a word -/

/-- A format A word whose OP is below 256 has format A. -/
theorem formatOf_fmtA (op : BitVec 10) (v : BitVec 1) (t : BitVec 2) (a b : Reg) (h : op.extractLsb' 8 2 = 0#2) :
    formatOf (fmtA op v t a b) = some .a := by
  have h29 : (fmtA op v t a b).extractLsb' 29 3 = 0b000#3 := by
    apply BitVec.eq_of_getLsbD_eq
    intro i hi
    simp only [fmtA, BitVec.getLsbD_extractLsb', BitVec.getLsbD_append]
    interval_cases i <;> simp
  have h26 : (fmtA op v t a b).extractLsb' 26 6 = 0b000000#6 := by
    rw [fmtA, h]
    apply BitVec.eq_of_getLsbD_eq
    intro i hi
    simp only [BitVec.getLsbD_extractLsb', BitVec.getLsbD_append]
    interval_cases i <;> simp
  have h28 : (fmtA op v t a b).extractLsb' 28 4 = 0#4 := by
    apply BitVec.eq_of_getLsbD_eq
    intro i hi
    simp only [fmtA, BitVec.getLsbD_extractLsb', BitVec.getLsbD_append]
    interval_cases i <;> simp
  have h2 : (fmtA op v t a b).extractLsb' 2 5 = 0#5 := by
    apply BitVec.eq_of_getLsbD_eq
    intro i hi
    simp only [fmtA, BitVec.getLsbD_extractLsb', BitVec.getLsbD_append]
    interval_cases i <;> simp
  simp [formatOf, h29, h26, h28, h2]

/-- A format B word whose OP is below 128 and not below 4 has format B. -/
theorem formatOf_fmtB (op : BitVec 9) (v t : BitVec 2) (a b c : Reg) (h : op.extractLsb' 7 2 = 0#2)
    (h' : op.extractLsb' 2 5 ≠ 0#5) : formatOf (fmtB op v t a b c) = some .b := by
  have h29 : (fmtB op v t a b c).extractLsb' 29 3 = 0b000#3 := by
    apply BitVec.eq_of_getLsbD_eq
    intro i hi
    simp only [fmtB, BitVec.getLsbD_extractLsb', BitVec.getLsbD_append]
    interval_cases i <;> simp
  have h26 : (fmtB op v t a b c).extractLsb' 26 6 = 0b000000#6 := by
    rw [fmtB, h]
    apply BitVec.eq_of_getLsbD_eq
    intro i hi
    simp only [BitVec.getLsbD_extractLsb', BitVec.getLsbD_append]
    interval_cases i <;> simp
  have h28 : (fmtB op v t a b c).extractLsb' 28 4 = 0#4 := by
    apply BitVec.eq_of_getLsbD_eq
    intro i hi
    simp only [fmtB, BitVec.getLsbD_extractLsb', BitVec.getLsbD_append]
    interval_cases i <;> simp
  have h2 : (fmtB op v t a b c).extractLsb' 2 5 = op.extractLsb' 2 5 := by
    apply BitVec.eq_of_getLsbD_eq
    intro i hi
    simp only [fmtB, BitVec.getLsbD_extractLsb', BitVec.getLsbD_append]
    interval_cases i <;> simp
  simp [formatOf, h29, h26, h28, h2, h']

/-- A format C word whose OP is 4 to 47 has format C. -/
theorem formatOf_fmtC (op : BitVec 6) (v : BitVec 1) (a b : Reg) (im : BitVec 15) (h1 : 4 ≤ op.toNat)
    (h2 : op.toNat < 48) : formatOf (fmtC op v a b im) = some .c := by
  have h29 : (fmtC op v a b im).extractLsb' 29 3 = op.extractLsb' 3 3 := by
    apply BitVec.eq_of_getLsbD_eq
    intro i hi
    simp only [fmtC, BitVec.getLsbD_extractLsb', BitVec.getLsbD_append]
    interval_cases i <;> simp
  have h26 : (fmtC op v a b im).extractLsb' 26 6 = op := fmtC_op op v a b im
  have h28 : (fmtC op v a b im).extractLsb' 28 4 = op.extractLsb' 2 4 := by
    apply BitVec.eq_of_getLsbD_eq
    intro i hi
    simp only [fmtC, BitVec.getLsbD_extractLsb', BitVec.getLsbD_append]
    interval_cases i <;> simp
  have : ∀ op : BitVec 6, 4 ≤ op.toNat → op.toNat < 48 → op.extractLsb' 3 3 ≠ 0b111#3 ∧ op ≠ 0b110111#6 ∧
      op.extractLsb' 3 3 ≠ 0b110#3 ∧ op.extractLsb' 2 4 ≠ 0#4 := by decide
  obtain ⟨ha, hb, hc, hd⟩ := this op h1 h2
  simp [formatOf, h29, h26, h28, ha, hb, hc, hd]

/-- A format D word whose OP is not 7 has format D. -/
theorem formatOf_fmtD (op : BitVec 3) (a : Reg) (im : BitVec 21) (h : op ≠ 0b111#3) :
    formatOf (fmtD op a im) = some .d := by
  have h29 : (fmtD op a im).extractLsb' 29 3 = 0b110#3 := by
    apply BitVec.eq_of_getLsbD_eq
    intro i hi
    simp only [fmtD, BitVec.getLsbD_extractLsb', BitVec.getLsbD_append]
    interval_cases i <;> simp
  have h26 : (fmtD op a im).extractLsb' 26 6 = 0b110#3 ++ op := by
    apply BitVec.eq_of_getLsbD_eq
    intro i hi
    simp only [fmtD, BitVec.getLsbD_extractLsb', BitVec.getLsbD_append]
    interval_cases i <;> simp
  have : ∀ op : BitVec 3, op ≠ 0b111#3 → 0b110#3 ++ op ≠ 0b110111#6 := by decide
  simp [formatOf, h29, h26, this op h]

/-- A format E word has format E. -/
theorem formatOf_fmtE (op : BitVec 3) (a : Reg) (im : BitVec 18) : formatOf (fmtE op a im) = some .e := by
  have h29 : (fmtE op a im).extractLsb' 29 3 = 0b110#3 := by
    apply BitVec.eq_of_getLsbD_eq
    intro i hi
    simp only [fmtE, BitVec.getLsbD_extractLsb', BitVec.getLsbD_append]
    interval_cases i <;> simp
  have h26 : (fmtE op a im).extractLsb' 26 6 = 0b110111#6 := by
    apply BitVec.eq_of_getLsbD_eq
    intro i hi
    simp only [fmtE, BitVec.getLsbD_extractLsb', BitVec.getLsbD_append]
    interval_cases i <;> simp
  simp [formatOf, h29, h26]

/-! ### Decoding a word of a known format -/

theorem decode_fmtA (op : BitVec 10) (v : BitVec 1) (t : BitVec 2) (a b : Reg) (h : op.extractLsb' 8 2 = 0#2) :
    decodeWord (fmtA op v t a b) = decodeA op v t a b := by
  unfold decodeWord
  rw [formatOf_fmtA _ _ _ _ _ h]
  simp only [fmtA_op, fmtA_v, fmtA_t, fmtA_a, fmtA_b]

theorem decode_fmtB (op : BitVec 9) (v t : BitVec 2) (a b c : Reg) (h : op.extractLsb' 7 2 = 0#2)
    (h' : op.extractLsb' 2 5 ≠ 0#5) : decodeWord (fmtB op v t a b c) = decodeB op v t a b c := by
  unfold decodeWord
  rw [formatOf_fmtB _ _ _ _ _ _ h h']
  simp only [fmtB_op, fmtB_v, fmtB_t, fmtB_a, fmtB_b, fmtB_c]

theorem decode_fmtC (op : BitVec 6) (v : BitVec 1) (a b : Reg) (im : BitVec 15) (h : 4 ≤ op.toNat)
    (h' : op.toNat < 48) : decodeWord (fmtC op v a b im) = decodeC op v a b im := by
  unfold decodeWord
  rw [formatOf_fmtC _ _ _ _ _ h h']
  simp only [fmtC_op, fmtC_v, fmtC_a, fmtC_b, fmtC_im]

theorem decode_fmtD (op : BitVec 3) (a : Reg) (im : BitVec 21) (h : op ≠ 0b111#3) :
    decodeWord (fmtD op a im) = decodeD op a im := by
  unfold decodeWord
  rw [formatOf_fmtD _ _ _ h]
  simp only [fmtD_op, fmtD_a, fmtD_im]

theorem decode_fmtE (op : BitVec 3) (a : Reg) (im : BitVec 18) : decodeWord (fmtE op a im) = decodeE op a im := by
  unfold decodeWord
  rw [formatOf_fmtE]
  simp only [fmtE_op, fmtE_a, fmtE_im]

end Sys2Proof
end

