-- ==== Sys2Proof/Laws/PerInstr.lean ====
section
/-! SUPPORT. The family OpcodeRow: every instruction's word carries the fixed bits of its row of
spec/opcode_table.json. The mask and match numbers are the table's own. -/

namespace Sys2Proof

/-- The mask and match of the instruction's row in spec/opcode_table.json. -/
def Instr.tableRow (i : Instr) : Word × Word :=
  match i with
  | .clz _ _ _ _ => (0xFC007E7F#32, 0x00000000#32)
  | .ctz _ _ _ _ => (0xFC007E7F#32, 0x00000001#32)
  | .clo _ _ _ _ => (0xFC007E7F#32, 0x00000002#32)
  | .cto _ _ _ _ => (0xFC007E7F#32, 0x00000003#32)
  | .popcnt _ _ _ _ => (0xFC007E7F#32, 0x00000200#32)
  | .rev _ _ _ _ => (0xFC007E7F#32, 0x00000201#32)
  | .funpl _ _ _ _ => (0xFC007E7F#32, 0x00002000#32)
  | .funph _ _ _ _ => (0xFC007E7F#32, 0x00002001#32)
  | .wait => (0xFFFFFFFF#32, 0x00004000#32)
  | .sync => (0xFFFFFFFF#32, 0x00004001#32)
  | .cctrl _ _ => (0xFC00FFFF#32, 0x00004002#32)
  | .crc32c _ _ _ _ => (0xFC007E7F#32, 0x00004400#32)
  | .crc32 _ _ _ _ => (0xFC007E7F#32, 0x00004401#32)
  | .stb _ _ _ _ _ => (0xFC00007F#32, 0x00000004#32)
  | .sth _ _ _ _ _ => (0xFC00007F#32, 0x00000005#32)
  | .stw _ _ _ _ _ => (0xFC00007F#32, 0x00000006#32)
  | .ldb _ _ _ _ _ => (0xFC00007F#32, 0x00000008#32)
  | .ldh _ _ _ _ _ => (0xFC00007F#32, 0x00000009#32)
  | .ldw _ _ _ _ _ => (0xFC00007F#32, 0x0000000A#32)
  | .ldub _ _ _ _ _ => (0xFC00007F#32, 0x0000000C#32)
  | .lduh _ _ _ _ _ => (0xFC00007F#32, 0x0000000D#32)
  | .ldea _ _ _ _ _ => (0xFC00007F#32, 0x0000000F#32)
  | .and _ _ _ _ _ => (0xFC00007F#32, 0x00000010#32)
  | .or _ _ _ _ _ => (0xFC00007F#32, 0x00000011#32)
  | .xor _ _ _ _ _ => (0xFC00007F#32, 0x00000012#32)
  | .ebf _ _ _ _ _ => (0xFC00007F#32, 0x00000013#32)
  | .ebfu _ _ _ _ _ => (0xFC00007F#32, 0x00000014#32)
  | .mkbf _ _ _ _ _ => (0xFC00007F#32, 0x00000015#32)
  | .add _ _ _ _ _ => (0xFC00007F#32, 0x00000016#32)
  | .sub _ _ _ _ _ => (0xFC00007F#32, 0x00000017#32)
  | .min _ _ _ _ _ => (0xFC00007F#32, 0x00000018#32)
  | .max _ _ _ _ _ => (0xFC00007F#32, 0x00000019#32)
  | .minu _ _ _ _ _ => (0xFC00007F#32, 0x0000001A#32)
  | .maxu _ _ _ _ _ => (0xFC00007F#32, 0x0000001B#32)
  | .seq _ _ _ _ _ => (0xFC00007F#32, 0x0000001C#32)
  | .sne _ _ _ _ _ => (0xFC00007F#32, 0x0000001D#32)
  | .slt _ _ _ _ _ => (0xFC00007F#32, 0x0000001E#32)
  | .sltu _ _ _ _ _ => (0xFC00007F#32, 0x0000001F#32)
  | .sle _ _ _ _ _ => (0xFC00007F#32, 0x00000020#32)
  | .sleu _ _ _ _ _ => (0xFC00007F#32, 0x00000021#32)
  | .shuf _ _ _ _ => (0xFC0001FF#32, 0x00000022#32)
  | .xchgsr _ _ _ => (0xFC00C1FF#32, 0x00000024#32)
  | .mul _ _ _ _ _ => (0xFC00007F#32, 0x00000027#32)
  | .div _ _ _ _ _ => (0xFC00007F#32, 0x00000028#32)
  | .divu _ _ _ _ _ => (0xFC00007F#32, 0x00000029#32)
  | .rem _ _ _ _ _ => (0xFC00007F#32, 0x0000002A#32)
  | .remu _ _ _ _ _ => (0xFC00007F#32, 0x0000002B#32)
  | .madd _ _ _ _ _ => (0xFC00007F#32, 0x0000002C#32)
  | .sel _ _ _ _ _ => (0xFC00007F#32, 0x0000002E#32)
  | .ibf _ _ _ _ _ => (0xFC00007F#32, 0x0000002F#32)
  | .mulhi _ _ _ _ _ => (0xFC00007F#32, 0x00000030#32)
  | .mulhiu _ _ _ _ _ => (0xFC00007F#32, 0x00000031#32)
  | .mulq _ _ _ _ _ => (0xFC00007F#32, 0x00000032#32)
  | .mulqr _ _ _ _ _ => (0xFC00007F#32, 0x00000033#32)
  | .pack _ _ _ _ _ => (0xFC00007F#32, 0x0000003A#32)
  | .packs _ _ _ _ _ => (0xFC00007F#32, 0x0000003B#32)
  | .packsu _ _ _ _ _ => (0xFC00007F#32, 0x0000003C#32)
  | .packhi _ _ _ _ _ => (0xFC00007F#32, 0x0000003D#32)
  | .packhir _ _ _ _ _ => (0xFC00007F#32, 0x0000003E#32)
  | .packhiur _ _ _ _ _ => (0xFC00007F#32, 0x0000003F#32)
  | .fmin _ _ _ _ _ => (0xFC00007F#32, 0x00000040#32)
  | .fmax _ _ _ _ _ => (0xFC00007F#32, 0x00000041#32)
  | .fseq _ _ _ _ _ => (0xFC00007F#32, 0x00000042#32)
  | .fsne _ _ _ _ _ => (0xFC00007F#32, 0x00000043#32)
  | .fslt _ _ _ _ _ => (0xFC00007F#32, 0x00000044#32)
  | .fsle _ _ _ _ _ => (0xFC00007F#32, 0x00000045#32)
  | .fsunord _ _ _ _ _ => (0xFC00007F#32, 0x00000046#32)
  | .fsord _ _ _ _ _ => (0xFC00007F#32, 0x00000047#32)
  | .itof _ _ _ _ _ => (0xFC00007F#32, 0x00000048#32)
  | .utof _ _ _ _ _ => (0xFC00007F#32, 0x00000049#32)
  | .ftoi _ _ _ _ _ => (0xFC00007F#32, 0x0000004A#32)
  | .ftou _ _ _ _ _ => (0xFC00007F#32, 0x0000004B#32)
  | .ftoir _ _ _ _ _ => (0xFC00007F#32, 0x0000004C#32)
  | .ftour _ _ _ _ _ => (0xFC00007F#32, 0x0000004D#32)
  | .fpack _ _ _ _ _ => (0xFC00007F#32, 0x0000004E#32)
  | .fadd _ _ _ _ _ => (0xFC00007F#32, 0x00000050#32)
  | .fsub _ _ _ _ _ => (0xFC00007F#32, 0x00000051#32)
  | .fmul _ _ _ _ _ => (0xFC00007F#32, 0x00000052#32)
  | .fdiv _ _ _ _ _ => (0xFC00007F#32, 0x00000053#32)
  | .adds _ _ _ _ _ => (0xFC00007F#32, 0x00000060#32)
  | .addsu _ _ _ _ _ => (0xFC00007F#32, 0x00000061#32)
  | .addh _ _ _ _ _ => (0xFC00007F#32, 0x00000062#32)
  | .addhu _ _ _ _ _ => (0xFC00007F#32, 0x00000063#32)
  | .addhr _ _ _ _ _ => (0xFC00007F#32, 0x00000064#32)
  | .addhur _ _ _ _ _ => (0xFC00007F#32, 0x00000065#32)
  | .subs _ _ _ _ _ => (0xFC00007F#32, 0x00000066#32)
  | .subsu _ _ _ _ _ => (0xFC00007F#32, 0x00000067#32)
  | .subh _ _ _ _ _ => (0xFC00007F#32, 0x00000068#32)
  | .subhu _ _ _ _ _ => (0xFC00007F#32, 0x00000069#32)
  | .subhr _ _ _ _ _ => (0xFC00007F#32, 0x0000006A#32)
  | .subhur _ _ _ _ _ => (0xFC00007F#32, 0x0000006B#32)
  | .stbI _ _ _ _ => (0xFC000000#32, 0x10000000#32)
  | .sthI _ _ _ _ => (0xFC000000#32, 0x14000000#32)
  | .stwI _ _ _ _ => (0xFC000000#32, 0x18000000#32)
  | .ldbI _ _ _ _ => (0xFC000000#32, 0x20000000#32)
  | .ldhI _ _ _ _ => (0xFC000000#32, 0x24000000#32)
  | .ldwI _ _ _ _ => (0xFC000000#32, 0x28000000#32)
  | .ldubI _ _ _ _ => (0xFC000000#32, 0x30000000#32)
  | .lduhI _ _ _ _ => (0xFC000000#32, 0x34000000#32)
  | .ldeaI _ _ _ _ => (0xFC000000#32, 0x3C000000#32)
  | .andI _ _ _ _ => (0xFC000000#32, 0x40000000#32)
  | .orI _ _ _ _ => (0xFC000000#32, 0x44000000#32)
  | .xorI _ _ _ _ => (0xFC000000#32, 0x48000000#32)
  | .ebfI _ _ _ _ => (0xFC000000#32, 0x4C000000#32)
  | .ebfuI _ _ _ _ => (0xFC000000#32, 0x50000000#32)
  | .mkbfI _ _ _ _ => (0xFC000000#32, 0x54000000#32)
  | .addI _ _ _ _ => (0xFC000000#32, 0x58000000#32)
  | .subI _ _ _ _ => (0xFC000000#32, 0x5C000000#32)
  | .minI _ _ _ _ => (0xFC000000#32, 0x60000000#32)
  | .maxI _ _ _ _ => (0xFC000000#32, 0x64000000#32)
  | .minuI _ _ _ _ => (0xFC000000#32, 0x68000000#32)
  | .maxuI _ _ _ _ => (0xFC000000#32, 0x6C000000#32)
  | .seqI _ _ _ _ => (0xFC000000#32, 0x70000000#32)
  | .sneI _ _ _ _ => (0xFC000000#32, 0x74000000#32)
  | .sltI _ _ _ _ => (0xFC000000#32, 0x78000000#32)
  | .sltuI _ _ _ _ => (0xFC000000#32, 0x7C000000#32)
  | .sleI _ _ _ _ => (0xFC000000#32, 0x80000000#32)
  | .sleuI _ _ _ _ => (0xFC000000#32, 0x84000000#32)
  | .shufI _ _ _ _ => (0xFC000000#32, 0x88000000#32)
  | .xchgsrI _ _ _ => (0xFC008000#32, 0x90000000#32)
  | .mulI _ _ _ _ => (0xFC000000#32, 0x9C000000#32)
  | .divI _ _ _ _ => (0xFC000000#32, 0xA0000000#32)
  | .divuI _ _ _ _ => (0xFC000000#32, 0xA4000000#32)
  | .remI _ _ _ _ => (0xFC000000#32, 0xA8000000#32)
  | .remuI _ _ _ _ => (0xFC000000#32, 0xAC000000#32)
  | .maddI _ _ _ _ => (0xFC000000#32, 0xB0000000#32)
  | .selI _ _ _ _ => (0xFC000000#32, 0xB8000000#32)
  | .ibfI _ _ _ _ => (0xFC000000#32, 0xBC000000#32)
  | .j _ _ => (0xFC000000#32, 0xC0000000#32)
  | .jl _ _ => (0xFC000000#32, 0xC4000000#32)
  | .ldwpc _ _ => (0xFC000000#32, 0xC8000000#32)
  | .stwpc _ _ => (0xFC000000#32, 0xCC000000#32)
  | .addpc _ _ => (0xFC000000#32, 0xD0000000#32)
  | .addpchi _ _ => (0xFC000000#32, 0xD4000000#32)
  | .ldi _ _ => (0xFC000000#32, 0xD8000000#32)
  | .bz _ _ => (0xFC1C0000#32, 0xDC000000#32)
  | .bnz _ _ => (0xFC1C0000#32, 0xDC040000#32)
  | .bs _ _ => (0xFC1C0000#32, 0xDC080000#32)
  | .bns _ _ => (0xFC1C0000#32, 0xDC0C0000#32)
  | .bltz _ _ => (0xFC1C0000#32, 0xDC100000#32)
  | .bgez _ _ => (0xFC1C0000#32, 0xDC140000#32)
  | .blez _ _ => (0xFC1C0000#32, 0xDC180000#32)
  | .bgtz _ _ => (0xFC1C0000#32, 0xDC1C0000#32)

/-- The instruction's word has its row's match bits under its row's mask. -/
def Laws.OpcodeRow.Statement (i : Instr) : Prop := encode i &&& i.tableRow.1 = i.tableRow.2

namespace Laws.OpcodeRow

set_option Elab.async false

theorem clz (v : VBit) (t : Packing) (a b : Reg) : Statement (.clz v t a b) := by
  simp only [Statement, encode, Instr.tableRow, fmtA_mask_FC007E7F]
  decide

theorem ctz (v : VBit) (t : Packing) (a b : Reg) : Statement (.ctz v t a b) := by
  simp only [Statement, encode, Instr.tableRow, fmtA_mask_FC007E7F]
  decide

theorem clo (v : VBit) (t : Packing) (a b : Reg) : Statement (.clo v t a b) := by
  simp only [Statement, encode, Instr.tableRow, fmtA_mask_FC007E7F]
  decide

theorem cto (v : VBit) (t : Packing) (a b : Reg) : Statement (.cto v t a b) := by
  simp only [Statement, encode, Instr.tableRow, fmtA_mask_FC007E7F]
  decide

theorem popcnt (v : VBit) (t : Packing) (a b : Reg) : Statement (.popcnt v t a b) := by
  simp only [Statement, encode, Instr.tableRow, fmtA_mask_FC007E7F]
  decide

theorem rev (v : VBit) (t : Packing) (a b : Reg) : Statement (.rev v t a b) := by
  simp only [Statement, encode, Instr.tableRow, fmtA_mask_FC007E7F]
  decide

theorem funpl (v : VBit) (t : Packing) (a b : Reg) : Statement (.funpl v t a b) := by
  simp only [Statement, encode, Instr.tableRow, fmtA_mask_FC007E7F]
  decide

theorem funph (v : VBit) (t : Packing) (a b : Reg) : Statement (.funph v t a b) := by
  simp only [Statement, encode, Instr.tableRow, fmtA_mask_FC007E7F]
  decide

theorem wait : Statement (.wait) := by unfold Statement; decide

theorem sync : Statement (.sync) := by unfold Statement; decide

theorem cctrl (a b : Reg) : Statement (.cctrl a b) := by
  simp only [Statement, encode, Instr.tableRow, fmtA_mask_FC00FFFF]
  decide

theorem crc32c (v : VBit) (t : CrcWidth) (a b : Reg) : Statement (.crc32c v t a b) := by
  simp only [Statement, encode, Instr.tableRow, fmtA_mask_FC007E7F]
  decide

theorem crc32 (v : VBit) (t : CrcWidth) (a b : Reg) : Statement (.crc32 v t a b) := by
  simp only [Statement, encode, Instr.tableRow, fmtA_mask_FC007E7F]
  decide

theorem stb (v : VMode) (t : Scale) (a b c : Reg) : Statement (.stb v t a b c) := by
  simp only [Statement, encode, Instr.tableRow, fmtB_mask_FC00007F]
  decide

theorem sth (v : VMode) (t : Scale) (a b c : Reg) : Statement (.sth v t a b c) := by
  simp only [Statement, encode, Instr.tableRow, fmtB_mask_FC00007F]
  decide

theorem stw (v : VMode) (t : Scale) (a b c : Reg) : Statement (.stw v t a b c) := by
  simp only [Statement, encode, Instr.tableRow, fmtB_mask_FC00007F]
  decide

theorem ldb (v : VMode) (t : Scale) (a b c : Reg) : Statement (.ldb v t a b c) := by
  simp only [Statement, encode, Instr.tableRow, fmtB_mask_FC00007F]
  decide

theorem ldh (v : VMode) (t : Scale) (a b c : Reg) : Statement (.ldh v t a b c) := by
  simp only [Statement, encode, Instr.tableRow, fmtB_mask_FC00007F]
  decide

theorem ldw (v : VMode) (t : Scale) (a b c : Reg) : Statement (.ldw v t a b c) := by
  simp only [Statement, encode, Instr.tableRow, fmtB_mask_FC00007F]
  decide

theorem ldub (v : VMode) (t : Scale) (a b c : Reg) : Statement (.ldub v t a b c) := by
  simp only [Statement, encode, Instr.tableRow, fmtB_mask_FC00007F]
  decide

theorem lduh (v : VMode) (t : Scale) (a b c : Reg) : Statement (.lduh v t a b c) := by
  simp only [Statement, encode, Instr.tableRow, fmtB_mask_FC00007F]
  decide

theorem ldea (v : VMode) (t : Scale) (a b c : Reg) : Statement (.ldea v t a b c) := by
  simp only [Statement, encode, Instr.tableRow, fmtB_mask_FC00007F]
  decide

theorem and (v : VMode) (t : Negate) (a b c : Reg) : Statement (.and v t a b c) := by
  simp only [Statement, encode, Instr.tableRow, fmtB_mask_FC00007F]
  decide

theorem or (v : VMode) (t : Negate) (a b c : Reg) : Statement (.or v t a b c) := by
  simp only [Statement, encode, Instr.tableRow, fmtB_mask_FC00007F]
  decide

theorem xor (v : VMode) (t : Negate) (a b c : Reg) : Statement (.xor v t a b c) := by
  simp only [Statement, encode, Instr.tableRow, fmtB_mask_FC00007F]
  decide

theorem ebf (v : VMode) (t : Packing) (a b c : Reg) : Statement (.ebf v t a b c) := by
  simp only [Statement, encode, Instr.tableRow, fmtB_mask_FC00007F]
  decide

theorem ebfu (v : VMode) (t : Packing) (a b c : Reg) : Statement (.ebfu v t a b c) := by
  simp only [Statement, encode, Instr.tableRow, fmtB_mask_FC00007F]
  decide

theorem mkbf (v : VMode) (t : Packing) (a b c : Reg) : Statement (.mkbf v t a b c) := by
  simp only [Statement, encode, Instr.tableRow, fmtB_mask_FC00007F]
  decide

theorem add (v : VMode) (t : Packing) (a b c : Reg) : Statement (.add v t a b c) := by
  simp only [Statement, encode, Instr.tableRow, fmtB_mask_FC00007F]
  decide

theorem sub (v : VMode) (t : Packing) (a b c : Reg) : Statement (.sub v t a b c) := by
  simp only [Statement, encode, Instr.tableRow, fmtB_mask_FC00007F]
  decide

theorem min (v : VMode) (t : Packing) (a b c : Reg) : Statement (.min v t a b c) := by
  simp only [Statement, encode, Instr.tableRow, fmtB_mask_FC00007F]
  decide

theorem max (v : VMode) (t : Packing) (a b c : Reg) : Statement (.max v t a b c) := by
  simp only [Statement, encode, Instr.tableRow, fmtB_mask_FC00007F]
  decide

theorem minu (v : VMode) (t : Packing) (a b c : Reg) : Statement (.minu v t a b c) := by
  simp only [Statement, encode, Instr.tableRow, fmtB_mask_FC00007F]
  decide

theorem maxu (v : VMode) (t : Packing) (a b c : Reg) : Statement (.maxu v t a b c) := by
  simp only [Statement, encode, Instr.tableRow, fmtB_mask_FC00007F]
  decide

theorem seq (v : VMode) (t : Packing) (a b c : Reg) : Statement (.seq v t a b c) := by
  simp only [Statement, encode, Instr.tableRow, fmtB_mask_FC00007F]
  decide

theorem sne (v : VMode) (t : Packing) (a b c : Reg) : Statement (.sne v t a b c) := by
  simp only [Statement, encode, Instr.tableRow, fmtB_mask_FC00007F]
  decide

theorem slt (v : VMode) (t : Packing) (a b c : Reg) : Statement (.slt v t a b c) := by
  simp only [Statement, encode, Instr.tableRow, fmtB_mask_FC00007F]
  decide

theorem sltu (v : VMode) (t : Packing) (a b c : Reg) : Statement (.sltu v t a b c) := by
  simp only [Statement, encode, Instr.tableRow, fmtB_mask_FC00007F]
  decide

theorem sle (v : VMode) (t : Packing) (a b c : Reg) : Statement (.sle v t a b c) := by
  simp only [Statement, encode, Instr.tableRow, fmtB_mask_FC00007F]
  decide

theorem sleu (v : VMode) (t : Packing) (a b c : Reg) : Statement (.sleu v t a b c) := by
  simp only [Statement, encode, Instr.tableRow, fmtB_mask_FC00007F]
  decide

theorem shuf (v : VMode) (a b c : Reg) : Statement (.shuf v a b c) := by
  simp only [Statement, encode, Instr.tableRow, fmtB_mask_FC0001FF]
  decide

theorem xchgsr (a b c : Reg) : Statement (.xchgsr a b c) := by
  simp only [Statement, encode, Instr.tableRow, fmtB_mask_FC00C1FF]
  decide

theorem mul (v : VMode) (t : Packing) (a b c : Reg) : Statement (.mul v t a b c) := by
  simp only [Statement, encode, Instr.tableRow, fmtB_mask_FC00007F]
  decide

theorem div (v : VMode) (t : Packing) (a b c : Reg) : Statement (.div v t a b c) := by
  simp only [Statement, encode, Instr.tableRow, fmtB_mask_FC00007F]
  decide

theorem divu (v : VMode) (t : Packing) (a b c : Reg) : Statement (.divu v t a b c) := by
  simp only [Statement, encode, Instr.tableRow, fmtB_mask_FC00007F]
  decide

theorem rem (v : VMode) (t : Packing) (a b c : Reg) : Statement (.rem v t a b c) := by
  simp only [Statement, encode, Instr.tableRow, fmtB_mask_FC00007F]
  decide

theorem remu (v : VMode) (t : Packing) (a b c : Reg) : Statement (.remu v t a b c) := by
  simp only [Statement, encode, Instr.tableRow, fmtB_mask_FC00007F]
  decide

theorem madd (v : VMode) (t : Packing) (a b c : Reg) : Statement (.madd v t a b c) := by
  simp only [Statement, encode, Instr.tableRow, fmtB_mask_FC00007F]
  decide

theorem sel (v : VMode) (t : SelPerm) (a b c : Reg) : Statement (.sel v t a b c) := by
  simp only [Statement, encode, Instr.tableRow, fmtB_mask_FC00007F]
  decide

theorem ibf (v : VMode) (t : Packing) (a b c : Reg) : Statement (.ibf v t a b c) := by
  simp only [Statement, encode, Instr.tableRow, fmtB_mask_FC00007F]
  decide

theorem mulhi (v : VMode) (t : Packing) (a b c : Reg) : Statement (.mulhi v t a b c) := by
  simp only [Statement, encode, Instr.tableRow, fmtB_mask_FC00007F]
  decide

theorem mulhiu (v : VMode) (t : Packing) (a b c : Reg) : Statement (.mulhiu v t a b c) := by
  simp only [Statement, encode, Instr.tableRow, fmtB_mask_FC00007F]
  decide

theorem mulq (v : VMode) (t : Packing) (a b c : Reg) : Statement (.mulq v t a b c) := by
  simp only [Statement, encode, Instr.tableRow, fmtB_mask_FC00007F]
  decide

theorem mulqr (v : VMode) (t : Packing) (a b c : Reg) : Statement (.mulqr v t a b c) := by
  simp only [Statement, encode, Instr.tableRow, fmtB_mask_FC00007F]
  decide

theorem pack (v : VMode) (t : Packing) (a b c : Reg) : Statement (.pack v t a b c) := by
  simp only [Statement, encode, Instr.tableRow, fmtB_mask_FC00007F]
  decide

theorem packs (v : VMode) (t : Packing) (a b c : Reg) : Statement (.packs v t a b c) := by
  simp only [Statement, encode, Instr.tableRow, fmtB_mask_FC00007F]
  decide

theorem packsu (v : VMode) (t : Packing) (a b c : Reg) : Statement (.packsu v t a b c) := by
  simp only [Statement, encode, Instr.tableRow, fmtB_mask_FC00007F]
  decide

theorem packhi (v : VMode) (t : Packing) (a b c : Reg) : Statement (.packhi v t a b c) := by
  simp only [Statement, encode, Instr.tableRow, fmtB_mask_FC00007F]
  decide

theorem packhir (v : VMode) (t : Packing) (a b c : Reg) : Statement (.packhir v t a b c) := by
  simp only [Statement, encode, Instr.tableRow, fmtB_mask_FC00007F]
  decide

theorem packhiur (v : VMode) (t : Packing) (a b c : Reg) : Statement (.packhiur v t a b c) := by
  simp only [Statement, encode, Instr.tableRow, fmtB_mask_FC00007F]
  decide

theorem fmin (v : VMode) (t : Packing) (a b c : Reg) : Statement (.fmin v t a b c) := by
  simp only [Statement, encode, Instr.tableRow, fmtB_mask_FC00007F]
  decide

theorem fmax (v : VMode) (t : Packing) (a b c : Reg) : Statement (.fmax v t a b c) := by
  simp only [Statement, encode, Instr.tableRow, fmtB_mask_FC00007F]
  decide

theorem fseq (v : VMode) (t : Packing) (a b c : Reg) : Statement (.fseq v t a b c) := by
  simp only [Statement, encode, Instr.tableRow, fmtB_mask_FC00007F]
  decide

theorem fsne (v : VMode) (t : Packing) (a b c : Reg) : Statement (.fsne v t a b c) := by
  simp only [Statement, encode, Instr.tableRow, fmtB_mask_FC00007F]
  decide

theorem fslt (v : VMode) (t : Packing) (a b c : Reg) : Statement (.fslt v t a b c) := by
  simp only [Statement, encode, Instr.tableRow, fmtB_mask_FC00007F]
  decide

theorem fsle (v : VMode) (t : Packing) (a b c : Reg) : Statement (.fsle v t a b c) := by
  simp only [Statement, encode, Instr.tableRow, fmtB_mask_FC00007F]
  decide

theorem fsunord (v : VMode) (t : Packing) (a b c : Reg) : Statement (.fsunord v t a b c) := by
  simp only [Statement, encode, Instr.tableRow, fmtB_mask_FC00007F]
  decide

theorem fsord (v : VMode) (t : Packing) (a b c : Reg) : Statement (.fsord v t a b c) := by
  simp only [Statement, encode, Instr.tableRow, fmtB_mask_FC00007F]
  decide

theorem itof (v : VMode) (t : Packing) (a b c : Reg) : Statement (.itof v t a b c) := by
  simp only [Statement, encode, Instr.tableRow, fmtB_mask_FC00007F]
  decide

theorem utof (v : VMode) (t : Packing) (a b c : Reg) : Statement (.utof v t a b c) := by
  simp only [Statement, encode, Instr.tableRow, fmtB_mask_FC00007F]
  decide

theorem ftoi (v : VMode) (t : Packing) (a b c : Reg) : Statement (.ftoi v t a b c) := by
  simp only [Statement, encode, Instr.tableRow, fmtB_mask_FC00007F]
  decide

theorem ftou (v : VMode) (t : Packing) (a b c : Reg) : Statement (.ftou v t a b c) := by
  simp only [Statement, encode, Instr.tableRow, fmtB_mask_FC00007F]
  decide

theorem ftoir (v : VMode) (t : Packing) (a b c : Reg) : Statement (.ftoir v t a b c) := by
  simp only [Statement, encode, Instr.tableRow, fmtB_mask_FC00007F]
  decide

theorem ftour (v : VMode) (t : Packing) (a b c : Reg) : Statement (.ftour v t a b c) := by
  simp only [Statement, encode, Instr.tableRow, fmtB_mask_FC00007F]
  decide

theorem fpack (v : VMode) (t : Packing) (a b c : Reg) : Statement (.fpack v t a b c) := by
  simp only [Statement, encode, Instr.tableRow, fmtB_mask_FC00007F]
  decide

theorem fadd (v : VMode) (t : Packing) (a b c : Reg) : Statement (.fadd v t a b c) := by
  simp only [Statement, encode, Instr.tableRow, fmtB_mask_FC00007F]
  decide

theorem fsub (v : VMode) (t : Packing) (a b c : Reg) : Statement (.fsub v t a b c) := by
  simp only [Statement, encode, Instr.tableRow, fmtB_mask_FC00007F]
  decide

theorem fmul (v : VMode) (t : Packing) (a b c : Reg) : Statement (.fmul v t a b c) := by
  simp only [Statement, encode, Instr.tableRow, fmtB_mask_FC00007F]
  decide

theorem fdiv (v : VMode) (t : Packing) (a b c : Reg) : Statement (.fdiv v t a b c) := by
  simp only [Statement, encode, Instr.tableRow, fmtB_mask_FC00007F]
  decide

theorem adds (v : VMode) (t : Packing) (a b c : Reg) : Statement (.adds v t a b c) := by
  simp only [Statement, encode, Instr.tableRow, fmtB_mask_FC00007F]
  decide

theorem addsu (v : VMode) (t : Packing) (a b c : Reg) : Statement (.addsu v t a b c) := by
  simp only [Statement, encode, Instr.tableRow, fmtB_mask_FC00007F]
  decide

theorem addh (v : VMode) (t : Packing) (a b c : Reg) : Statement (.addh v t a b c) := by
  simp only [Statement, encode, Instr.tableRow, fmtB_mask_FC00007F]
  decide

theorem addhu (v : VMode) (t : Packing) (a b c : Reg) : Statement (.addhu v t a b c) := by
  simp only [Statement, encode, Instr.tableRow, fmtB_mask_FC00007F]
  decide

theorem addhr (v : VMode) (t : Packing) (a b c : Reg) : Statement (.addhr v t a b c) := by
  simp only [Statement, encode, Instr.tableRow, fmtB_mask_FC00007F]
  decide

theorem addhur (v : VMode) (t : Packing) (a b c : Reg) : Statement (.addhur v t a b c) := by
  simp only [Statement, encode, Instr.tableRow, fmtB_mask_FC00007F]
  decide

theorem subs (v : VMode) (t : Packing) (a b c : Reg) : Statement (.subs v t a b c) := by
  simp only [Statement, encode, Instr.tableRow, fmtB_mask_FC00007F]
  decide

theorem subsu (v : VMode) (t : Packing) (a b c : Reg) : Statement (.subsu v t a b c) := by
  simp only [Statement, encode, Instr.tableRow, fmtB_mask_FC00007F]
  decide

theorem subh (v : VMode) (t : Packing) (a b c : Reg) : Statement (.subh v t a b c) := by
  simp only [Statement, encode, Instr.tableRow, fmtB_mask_FC00007F]
  decide

theorem subhu (v : VMode) (t : Packing) (a b c : Reg) : Statement (.subhu v t a b c) := by
  simp only [Statement, encode, Instr.tableRow, fmtB_mask_FC00007F]
  decide

theorem subhr (v : VMode) (t : Packing) (a b c : Reg) : Statement (.subhr v t a b c) := by
  simp only [Statement, encode, Instr.tableRow, fmtB_mask_FC00007F]
  decide

theorem subhur (v : VMode) (t : Packing) (a b c : Reg) : Statement (.subhur v t a b c) := by
  simp only [Statement, encode, Instr.tableRow, fmtB_mask_FC00007F]
  decide

theorem stbI (v : VBit) (a b : Reg) (im : BitVec 15) : Statement (.stbI v a b im) := by
  simp only [Statement, encode, Instr.tableRow, fmtC_mask_FC000000]
  decide

theorem sthI (v : VBit) (a b : Reg) (im : BitVec 15) : Statement (.sthI v a b im) := by
  simp only [Statement, encode, Instr.tableRow, fmtC_mask_FC000000]
  decide

theorem stwI (v : VBit) (a b : Reg) (im : BitVec 15) : Statement (.stwI v a b im) := by
  simp only [Statement, encode, Instr.tableRow, fmtC_mask_FC000000]
  decide

theorem ldbI (v : VBit) (a b : Reg) (im : BitVec 15) : Statement (.ldbI v a b im) := by
  simp only [Statement, encode, Instr.tableRow, fmtC_mask_FC000000]
  decide

theorem ldhI (v : VBit) (a b : Reg) (im : BitVec 15) : Statement (.ldhI v a b im) := by
  simp only [Statement, encode, Instr.tableRow, fmtC_mask_FC000000]
  decide

theorem ldwI (v : VBit) (a b : Reg) (im : BitVec 15) : Statement (.ldwI v a b im) := by
  simp only [Statement, encode, Instr.tableRow, fmtC_mask_FC000000]
  decide

theorem ldubI (v : VBit) (a b : Reg) (im : BitVec 15) : Statement (.ldubI v a b im) := by
  simp only [Statement, encode, Instr.tableRow, fmtC_mask_FC000000]
  decide

theorem lduhI (v : VBit) (a b : Reg) (im : BitVec 15) : Statement (.lduhI v a b im) := by
  simp only [Statement, encode, Instr.tableRow, fmtC_mask_FC000000]
  decide

theorem ldeaI (v : VBit) (a b : Reg) (im : BitVec 15) : Statement (.ldeaI v a b im) := by
  simp only [Statement, encode, Instr.tableRow, fmtC_mask_FC000000]
  decide

theorem andI (v : VBit) (a b : Reg) (im : BitVec 15) : Statement (.andI v a b im) := by
  simp only [Statement, encode, Instr.tableRow, fmtC_mask_FC000000]
  decide

theorem orI (v : VBit) (a b : Reg) (im : BitVec 15) : Statement (.orI v a b im) := by
  simp only [Statement, encode, Instr.tableRow, fmtC_mask_FC000000]
  decide

theorem xorI (v : VBit) (a b : Reg) (im : BitVec 15) : Statement (.xorI v a b im) := by
  simp only [Statement, encode, Instr.tableRow, fmtC_mask_FC000000]
  decide

theorem ebfI (v : VBit) (a b : Reg) (im : BitVec 15) : Statement (.ebfI v a b im) := by
  simp only [Statement, encode, Instr.tableRow, fmtC_mask_FC000000]
  decide

theorem ebfuI (v : VBit) (a b : Reg) (im : BitVec 15) : Statement (.ebfuI v a b im) := by
  simp only [Statement, encode, Instr.tableRow, fmtC_mask_FC000000]
  decide

theorem mkbfI (v : VBit) (a b : Reg) (im : BitVec 15) : Statement (.mkbfI v a b im) := by
  simp only [Statement, encode, Instr.tableRow, fmtC_mask_FC000000]
  decide

theorem addI (v : VBit) (a b : Reg) (im : BitVec 15) : Statement (.addI v a b im) := by
  simp only [Statement, encode, Instr.tableRow, fmtC_mask_FC000000]
  decide

theorem subI (v : VBit) (a b : Reg) (im : BitVec 15) : Statement (.subI v a b im) := by
  simp only [Statement, encode, Instr.tableRow, fmtC_mask_FC000000]
  decide

theorem minI (v : VBit) (a b : Reg) (im : BitVec 15) : Statement (.minI v a b im) := by
  simp only [Statement, encode, Instr.tableRow, fmtC_mask_FC000000]
  decide

theorem maxI (v : VBit) (a b : Reg) (im : BitVec 15) : Statement (.maxI v a b im) := by
  simp only [Statement, encode, Instr.tableRow, fmtC_mask_FC000000]
  decide

theorem minuI (v : VBit) (a b : Reg) (im : BitVec 15) : Statement (.minuI v a b im) := by
  simp only [Statement, encode, Instr.tableRow, fmtC_mask_FC000000]
  decide

theorem maxuI (v : VBit) (a b : Reg) (im : BitVec 15) : Statement (.maxuI v a b im) := by
  simp only [Statement, encode, Instr.tableRow, fmtC_mask_FC000000]
  decide

theorem seqI (v : VBit) (a b : Reg) (im : BitVec 15) : Statement (.seqI v a b im) := by
  simp only [Statement, encode, Instr.tableRow, fmtC_mask_FC000000]
  decide

theorem sneI (v : VBit) (a b : Reg) (im : BitVec 15) : Statement (.sneI v a b im) := by
  simp only [Statement, encode, Instr.tableRow, fmtC_mask_FC000000]
  decide

theorem sltI (v : VBit) (a b : Reg) (im : BitVec 15) : Statement (.sltI v a b im) := by
  simp only [Statement, encode, Instr.tableRow, fmtC_mask_FC000000]
  decide

theorem sltuI (v : VBit) (a b : Reg) (im : BitVec 15) : Statement (.sltuI v a b im) := by
  simp only [Statement, encode, Instr.tableRow, fmtC_mask_FC000000]
  decide

theorem sleI (v : VBit) (a b : Reg) (im : BitVec 15) : Statement (.sleI v a b im) := by
  simp only [Statement, encode, Instr.tableRow, fmtC_mask_FC000000]
  decide

theorem sleuI (v : VBit) (a b : Reg) (im : BitVec 15) : Statement (.sleuI v a b im) := by
  simp only [Statement, encode, Instr.tableRow, fmtC_mask_FC000000]
  decide

theorem shufI (v : VBit) (a b : Reg) (im : BitVec 15) : Statement (.shufI v a b im) := by
  simp only [Statement, encode, Instr.tableRow, fmtC_mask_FC000000]
  decide

theorem xchgsrI (a b : Reg) (im : BitVec 15) : Statement (.xchgsrI a b im) := by
  simp only [Statement, encode, Instr.tableRow, fmtC_mask_FC008000]
  decide

theorem mulI (v : VBit) (a b : Reg) (im : BitVec 15) : Statement (.mulI v a b im) := by
  simp only [Statement, encode, Instr.tableRow, fmtC_mask_FC000000]
  decide

theorem divI (v : VBit) (a b : Reg) (im : BitVec 15) : Statement (.divI v a b im) := by
  simp only [Statement, encode, Instr.tableRow, fmtC_mask_FC000000]
  decide

theorem divuI (v : VBit) (a b : Reg) (im : BitVec 15) : Statement (.divuI v a b im) := by
  simp only [Statement, encode, Instr.tableRow, fmtC_mask_FC000000]
  decide

theorem remI (v : VBit) (a b : Reg) (im : BitVec 15) : Statement (.remI v a b im) := by
  simp only [Statement, encode, Instr.tableRow, fmtC_mask_FC000000]
  decide

theorem remuI (v : VBit) (a b : Reg) (im : BitVec 15) : Statement (.remuI v a b im) := by
  simp only [Statement, encode, Instr.tableRow, fmtC_mask_FC000000]
  decide

theorem maddI (v : VBit) (a b : Reg) (im : BitVec 15) : Statement (.maddI v a b im) := by
  simp only [Statement, encode, Instr.tableRow, fmtC_mask_FC000000]
  decide

theorem selI (v : VBit) (a b : Reg) (im : BitVec 15) : Statement (.selI v a b im) := by
  simp only [Statement, encode, Instr.tableRow, fmtC_mask_FC000000]
  decide

theorem ibfI (v : VBit) (a b : Reg) (im : BitVec 15) : Statement (.ibfI v a b im) := by
  simp only [Statement, encode, Instr.tableRow, fmtC_mask_FC000000]
  decide

theorem j (a : Reg) (im : BitVec 21) : Statement (.j a im) := by
  simp only [Statement, encode, Instr.tableRow, fmtD_mask_FC000000]
  decide

theorem jl (a : Reg) (im : BitVec 21) : Statement (.jl a im) := by
  simp only [Statement, encode, Instr.tableRow, fmtD_mask_FC000000]
  decide

theorem ldwpc (a : Reg) (im : BitVec 21) : Statement (.ldwpc a im) := by
  simp only [Statement, encode, Instr.tableRow, fmtD_mask_FC000000]
  decide

theorem stwpc (a : Reg) (im : BitVec 21) : Statement (.stwpc a im) := by
  simp only [Statement, encode, Instr.tableRow, fmtD_mask_FC000000]
  decide

theorem addpc (a : Reg) (im : BitVec 21) : Statement (.addpc a im) := by
  simp only [Statement, encode, Instr.tableRow, fmtD_mask_FC000000]
  decide

theorem addpchi (a : Reg) (im : BitVec 21) : Statement (.addpchi a im) := by
  simp only [Statement, encode, Instr.tableRow, fmtD_mask_FC000000]
  decide

theorem ldi (a : Reg) (im : BitVec 21) : Statement (.ldi a im) := by
  simp only [Statement, encode, Instr.tableRow, fmtD_mask_FC000000]
  decide

theorem bz (a : Reg) (im : BitVec 18) : Statement (.bz a im) := by
  simp only [Statement, encode, Instr.tableRow, fmtE_mask_FC1C0000]
  decide

theorem bnz (a : Reg) (im : BitVec 18) : Statement (.bnz a im) := by
  simp only [Statement, encode, Instr.tableRow, fmtE_mask_FC1C0000]
  decide

theorem bs (a : Reg) (im : BitVec 18) : Statement (.bs a im) := by
  simp only [Statement, encode, Instr.tableRow, fmtE_mask_FC1C0000]
  decide

theorem bns (a : Reg) (im : BitVec 18) : Statement (.bns a im) := by
  simp only [Statement, encode, Instr.tableRow, fmtE_mask_FC1C0000]
  decide

theorem bltz (a : Reg) (im : BitVec 18) : Statement (.bltz a im) := by
  simp only [Statement, encode, Instr.tableRow, fmtE_mask_FC1C0000]
  decide

theorem bgez (a : Reg) (im : BitVec 18) : Statement (.bgez a im) := by
  simp only [Statement, encode, Instr.tableRow, fmtE_mask_FC1C0000]
  decide

theorem blez (a : Reg) (im : BitVec 18) : Statement (.blez a im) := by
  simp only [Statement, encode, Instr.tableRow, fmtE_mask_FC1C0000]
  decide

theorem bgtz (a : Reg) (im : BitVec 18) : Statement (.bgtz a im) := by
  simp only [Statement, encode, Instr.tableRow, fmtE_mask_FC1C0000]
  decide

end Laws.OpcodeRow

end Sys2Proof
end

