-- ==== Sys2Proof/Safety.lean ====
section
/-! DEFINITION. The states the model means, and the runs that stay clear of the model-level faults. -/

namespace Sys2Proof.Machine

/-- The well-formed states: register number 0 of both files holds zero (R11, R21), every vector register has N
elements (R20), memory and stages are in canonical form, and the implementation parameters are legal (R5). -/
structure State.Inv (s : State) : Prop where
  z : s.regs[0] = 0#32
  vz : s.vregs[0] = List.replicate s.impl.elements 0#32
  lengths : ∀ k : Fin 32, s.vregs[k].length = s.impl.elements
  mem : Memory.wf s.mem = true
  stages : Stages.wf s.stages = true
  legal : s.impl.legal = true

/-! ### Groups of instructions the claims name -/

/-- The ten control flow instructions (R208). -/
def isControlFlow (i : Instr) : Bool :=
  match i with
  | .bz _ _ => true
  | .bnz _ _ => true
  | .bs _ _ => true
  | .bns _ _ => true
  | .bltz _ _ => true
  | .bgez _ _ => true
  | .blez _ _ => true
  | .bgtz _ _ => true
  | .j _ _ => true
  | .jl _ _ => true
  | _ => false

/-- The instructions that store to memory (R152). -/
def isStore (i : Instr) : Bool :=
  match i with
  | .stb _ _ _ _ _ => true
  | .sth _ _ _ _ _ => true
  | .stw _ _ _ _ _ => true
  | .stbI _ _ _ _ => true
  | .sthI _ _ _ _ => true
  | .stwI _ _ _ _ => true
  | .stwpc _ _ => true
  | _ => false

/-- The register number an instruction may write (R136, R207): none for the stores, the branches, J, WAIT and SYNC,
R30 for JL, the REGa field of every other instruction. -/
def destination (i : Instr) : Option Reg :=
  match i with
  | .wait => none
  | .sync => none
  | .jl _ _ => some 30#5
  | _ => if isStore i || isControlFlow i then none else some ((encode i).extractLsb' 21 5)

/-! ### Runs -/

/-- The next n steps, as far as they are taken. -/
def runSteps : Nat → State → Result
  | 0, s => .next s
  | n + 1, s => andThen (step s) (runSteps n)

/-- The next step raises no model-level fault (R341). -/
def State.stepSafe (s : State) : Prop := ∀ f, step s ≠ .fault f

/-- None of the next n steps raises a model-level fault (R341). -/
def State.runSafe (s : State) (n : Nat) : Prop := ∀ f, runSteps n s ≠ .fault f

end Sys2Proof.Machine
end

