-- ==== Sys2Proof/Certificates/Slice0/Obligations.lean ====
section
/-! DEFINITION. The statements for the provers, and before them the vocabulary they share, written from the rules of
spec/ and not from the meanings: operands, lanes, values, frames. -/

namespace Sys2Proof.Claims

open Sys2Proof Sys2Proof.Machine

/-! ### Operands and lanes (R120 to R128) -/

/-- Operand a of element i before the instruction: R[a] in V = 00, else V[a][i]. -/
def srcA (v : VMode) (a : Reg) (s : State) (i : Nat) : Word := if v = .scalar then s.reg a else s.elem a i

/-- Operand b of element i: R[b] in V = 00, V[b][VL + i] in V = 01, else V[b][i]. -/
def srcB (v : VMode) (b : Reg) (s : State) (i : Nat) : Word :=
  if v = .scalar then s.reg b else if v = .fold then s.elem b (s.vl + i) else s.elem b i

/-- Operand c of element i, a register: R[c] in V = 00 and V = 10, else V[c][i]. -/
def srcC (v : VMode) (c : Reg) (s : State) (i : Nat) : Word :=
  if v = .scalar ∨ v = .vecScalar then s.reg c else s.elem c i

/-- The width of a slice (R124). -/
def laneWidth (t : Packing) : Nat :=
  match t with
  | .word => 32
  | .byte => 8
  | .half => 16

/-- Slice k of an element (R124): bits `k · bits` to `(k + 1) · bits - 1`. -/
def lane (t : Packing) (k : Nat) (x : Word) : BitVec (laneWidth t) := x.extractLsb' (k * laneWidth t) (laneWidth t)

/-- What an instruction says of one slice of the result e, given the slices of a, b and c (R121). -/
abbrev LaneRel := (w : Nat) → BitVec w → BitVec w → BitVec w → BitVec w → Prop

/-- The relation holds of every slice of an element (R121, R124). -/
def Lanes (t : Packing) (r : LaneRel) (a b c e : Word) : Prop :=
  ∀ k, k * laneWidth t < 32 → r (laneWidth t) (lane t k a) (lane t k b) (lane t k c) (lane t k e)

/-! ### Hypotheses -/

/-- The conditions under which a variant executes: a well-formed state, the required modules implemented, VM for vector
operands, PM for a packed type (R133), and a vector length the mode allows (R22, R128). -/
def Ready (s : State) (v : VMode) (t : Packing) (need : List ArchModule) : Prop :=
  s.Inv ∧ (∀ m ∈ need, s.impl.has m = true) ∧ (v ≠ .scalar → s.impl.hasVM = true) ∧
    (t ≠ .word → s.impl.hasPM = true) ∧ (v = .vecScalar ∨ v = .vecVec → s.vl ≤ s.impl.elements) ∧
    (v = .fold → 2 * s.vl ≤ s.impl.elements)

/-! ### Results and frames -/

/-- Nothing outside the register files changes but pc, which goes to pc + 4: every byte of memory, every cache stage,
the standby state, the implementation and the host are as before. -/
def NextInOrder (s t : State) : Prop :=
  t.pc = s.pc + 4#32 ∧ t.standby = s.standby ∧ (∀ x, t.byte x = s.byte x) ∧ (∀ x, t.stage x = s.stage x) ∧
    t.impl = s.impl ∧ t.host = s.host

/-- The registers after an instruction with destination d: R[d] in V = 00, else elements 0 to VL - 1 of V[d], are as
`is` says, unless d is 0 (R11, R21); every other register and element is as before (R130). -/
def Writes (s t : State) (v : VMode) (d : Reg) (is : Nat → Word → Prop) : Prop :=
  (∀ q, if v = .scalar ∧ q = d ∧ d ≠ Reg.z then is 0 (t.reg q) else t.reg q = s.reg q) ∧
  (∀ q i, if v ≠ .scalar ∧ q = d ∧ d ≠ Reg.z ∧ i < s.vl then is i (t.elem q i) else t.elem q i = s.elem q i)

/-- The instruction gives a next state, with its destination as `is` says and nothing else changed but pc + 4. -/
def Completes (i : Instr) (s : State) (v : VMode) (d : Reg) (is : Nat → Word → Prop) : Prop :=
  ∃ t, exec i s = .next t ∧ Writes s t v d is ∧ NextInOrder s t

/-- A format B instruction in every V and packed T, with every register. -/
def RunsB (mk : VMode → Packing → Reg → Reg → Reg → Instr) (need : List ArchModule) (r : LaneRel) : Prop :=
  ∀ v t a b c s, Ready s v t need →
    Completes (mk v t a b c) s v a fun i e => Lanes t r (srcA v a s i) (srcB v b s i) (srcC v c s i) e

/-- A format C instruction in both V, with every register and immediate (R79, R132). -/
def RunsC (mk : VBit → Reg → Reg → BitVec 15 → Instr) (r : LaneRel) : Prop :=
  ∀ v a b im s, Ready s v.mode .word [] →
    Completes (mk v a b im) s v.mode a fun i e => r 32 (srcA v.mode a s i) (srcB v.mode b s i) (immI15HL im) e

/-- A format A instruction in both V and every packed T; there is no operand c. -/
def RunsA (mk : VBit → Packing → Reg → Reg → Instr) (need : List ArchModule) (r : LaneRel) : Prop :=
  ∀ v t a b s, Ready s v.mode t need →
    Completes (mk v t a b) s v.mode a fun i e => Lanes t r (srcA v.mode a s i) (srcB v.mode b s i) 0#32 e

/-! ### Memory accesses -/

/-- The number of elements: one in V = 00, else VL (R125, R126). -/
def count (v : VMode) (s : State) : Nat := if v = .scalar then 1 else s.vl

/-- Every element's access is aligned and mapped (R45, R47). -/
def Accessible (s : State) (v : VMode) (addr : Nat → Word) (n : Nat) (kind : AccessKind) : Prop :=
  ∀ i < count v s, (addr i).toNat % n = 0 ∧ s.isMapped (addr i) n kind = true

/-- A format B load: each element is what `val` reads at its address. -/
def LoadsB (mk : VMode → Scale → Reg → Reg → Reg → Instr) (n : Nat) (val : State → Word → Word) : Prop :=
  ∀ v t a b c s, v ≠ .fold → Ready s v .word [] →
    Accessible s v (fun i => effAddr v b (.reg c) (Scale.factor t) i s) n .read →
    Completes (mk v t a b c) s v a fun i e => e = val s (effAddr v b (.reg c) (Scale.factor t) i s)

/-- A format C load. -/
def LoadsC (mk : VBit → Reg → Reg → BitVec 15 → Instr) (n : Nat) (val : State → Word → Word) : Prop :=
  ∀ v a b im s, Ready s v.mode .word [] →
    Accessible s v.mode (fun i => effAddr v.mode b (.imm (immI15 im)) 1 i s) n .read →
    Completes (mk v a b im) s v.mode a fun i e => e = val s (effAddr v.mode b (.imm (immI15 im)) 1 i s)

/-- The half-word and the word at an address, least significant byte first (R41). -/
def halfAt (s : State) (x : Word) : BitVec 16 := s.byte (x + 1#32) ++ s.byte x

/-- See `halfAt`. -/
def wordAt (s : State) (x : Word) : Word := s.byte (x + 3#32) ++ s.byte (x + 2#32) ++ s.byte (x + 1#32) ++ s.byte x

/-- After a store: the registers are as before, pc is pc + 4; a byte outside every element's n bytes is as before, in
value and cache stage; byte k of the last element that covers an address is there, at the stored stage. -/
def Stores (s t : State) (m n : Nat) (addr val : Nat → Word) : Prop :=
  (∀ q, t.reg q = s.reg q) ∧ (∀ q i, t.elem q i = s.elem q i) ∧ t.pc = s.pc + 4#32 ∧ t.standby = s.standby ∧
  t.impl = s.impl ∧ t.host = s.host ∧
  (∀ x, (∀ i < m, n ≤ (x - addr i).toNat) → t.byte x = s.byte x ∧ t.stage x = s.stage x) ∧
  (∀ i < m, ∀ k < n, (∀ j < m, i < j → n ≤ (addr i + BitVec.ofNat 32 k - addr j).toNat) →
    t.byte (addr i + BitVec.ofNat 32 k) = (val i).extractLsb' (8 * k) 8 ∧
      t.stage (addr i + BitVec.ofNat 32 k) = .stored)

/-- A format B store of n bytes. -/
def StoresB (mk : VMode → Scale → Reg → Reg → Reg → Instr) (n : Nat) : Prop :=
  ∀ v t a b c s, v ≠ .fold → Ready s v .word [] →
    Accessible s v (fun i => effAddr v b (.reg c) (Scale.factor t) i s) n .write →
    ∃ u, exec (mk v t a b c) s = .next u ∧
      Stores s u (count v s) n (fun i => effAddr v b (.reg c) (Scale.factor t) i s) fun i => srcA v a s i

/-- A format C store of n bytes. -/
def StoresC (mk : VBit → Reg → Reg → BitVec 15 → Instr) (n : Nat) : Prop :=
  ∀ v a b im s, Ready s v.mode .word [] →
    Accessible s v.mode (fun i => effAddr v.mode b (.imm (immI15 im)) 1 i s) n .write →
    ∃ u, exec (mk v a b im) s = .next u ∧
      Stores s u (count v.mode s) n (fun i => effAddr v.mode b (.imm (immI15 im)) 1 i s) fun i => srcA v.mode a s i

/-- Element m's access fails its checks and no earlier element's does. -/
def FirstBad (s : State) (v : VMode) (addr : Nat → Word) (n : Nat) (kind : AccessKind) (m : Nat) : Prop :=
  m < count v s ∧ (∀ i < m, (addr i).toNat % n = 0 ∧ s.isMapped (addr i) n kind = true) ∧
    ¬((addr m).toNat % n = 0 ∧ s.isMapped (addr m) n kind = true)

/-- The fault of a bad access, reporting u: misaligned, whether mapped or not, else not mapped (R45, R47, R343). -/
def badAccess (u : State) (addr : Word) (n : Nat) (kind : AccessKind) : Fault :=
  if addr.toNat % n ≠ 0 then .misalignedAccess addr n u else .accessFault addr kind u

/-- A load that stops at element m has loaded the elements below m into a vector register, and done nothing else
(R138, R344). -/
def LoadedBelow (s u : State) (a : Reg) (m : Nat) (val : Nat → Word) : Prop :=
  (∀ q i, u.elem q i = if q = a ∧ a ≠ Reg.z ∧ i < m then val i else s.elem q i) ∧ (∀ q, u.reg q = s.reg q) ∧
    u.pc = s.pc ∧ (∀ x, u.byte x = s.byte x) ∧ (∀ x, u.stage x = s.stage x) ∧ u.standby = s.standby ∧
    u.impl = s.impl ∧ u.host = s.host

/-- How a format B load stops at a bad access. -/
def LoadStopsB (mk : VMode → Scale → Reg → Reg → Reg → Instr) (n : Nat) (val : State → Word → Word) : Prop :=
  ∀ v t a b c s m, v ≠ .fold → Ready s v .word [] →
    FirstBad s v (fun i => effAddr v b (.reg c) (Scale.factor t) i s) n .read m →
    ∃ u, exec (mk v t a b c) s = .fault (badAccess u (effAddr v b (.reg c) (Scale.factor t) m s) n .read) ∧
      LoadedBelow s u a m fun i => val s (effAddr v b (.reg c) (Scale.factor t) i s)

/-- How a format C load stops at a bad access. -/
def LoadStopsC (mk : VBit → Reg → Reg → BitVec 15 → Instr) (n : Nat) (val : State → Word → Word) : Prop :=
  ∀ v a b im s m, Ready s v.mode .word [] →
    FirstBad s v.mode (fun i => effAddr v.mode b (.imm (immI15 im)) 1 i s) n .read m →
    ∃ u, exec (mk v a b im) s = .fault (badAccess u (effAddr v.mode b (.imm (immI15 im)) 1 m s) n .read) ∧
      LoadedBelow s u a m fun i => val s (effAddr v.mode b (.imm (immI15 im)) 1 i s)

/-- How a format B store stops at a bad access: the elements below are stored, pc is as before (R138, R344). -/
def StoreStopsB (mk : VMode → Scale → Reg → Reg → Reg → Instr) (n : Nat) : Prop :=
  ∀ v t a b c s m, v ≠ .fold → Ready s v .word [] →
    FirstBad s v (fun i => effAddr v b (.reg c) (Scale.factor t) i s) n .write m →
    ∃ u, exec (mk v t a b c) s = .fault (badAccess u (effAddr v b (.reg c) (Scale.factor t) m s) n .write) ∧
      u.pc = s.pc ∧
      Stores s u.advance m n (fun i => effAddr v b (.reg c) (Scale.factor t) i s) fun i => srcA v a s i

/-- How a format C store stops at a bad access. -/
def StoreStopsC (mk : VBit → Reg → Reg → BitVec 15 → Instr) (n : Nat) : Prop :=
  ∀ v a b im s m, Ready s v.mode .word [] →
    FirstBad s v.mode (fun i => effAddr v.mode b (.imm (immI15 im)) 1 i s) n .write m →
    ∃ u, exec (mk v a b im) s = .fault (badAccess u (effAddr v.mode b (.imm (immI15 im)) 1 m s) n .write) ∧
      u.pc = s.pc ∧
      Stores s u.advance m n (fun i => effAddr v.mode b (.imm (immI15 im)) 1 i s) fun i => srcA v.mode a s i

/-! ### Integers (R7, R8) -/

/-- Clamp to the signed range of n bits. -/
def clampS (x : Int) (n : Nat) : Int :=
  if x < -(2 ^ (n - 1)) then -(2 ^ (n - 1)) else if 2 ^ (n - 1) - 1 < x then 2 ^ (n - 1) - 1 else x

/-- Clamp to the unsigned range of n bits. -/
def clampU (x : Int) (n : Nat) : Int := if x < 0 then 0 else if 2 ^ n - 1 < x then 2 ^ n - 1 else x

/-- The mask of a comparison (R190): every bit tells whether it holds. -/
def IsMask {w : Nat} (e : BitVec w) (holds : Prop) : Prop :=
  (holds → e = BitVec.allOnes w) ∧ (¬holds → e = 0#w)

/-- The offset of a bit field control slice (R225). -/
def offsetOf {w : Nat} (c : BitVec w) : Nat := c.toNat % w

/-- The width of a bit field control slice (R225): the four or five bits from bit 4 (byte mode) or bit 8, zero standing
for the full width. -/
def widthOf {w : Nat} (c : BitVec w) : Nat :=
  if c.toNat / (if w = 8 then 16 else 256) % w = 0 then w else c.toNat / (if w = 8 then 16 else 256) % w

/-! ### Floating-point values (R250, R251, R254) -/

/-- The number of fraction bits. -/
def fracBits (w : Nat) : Nat := if w = 8 then 3 else if w = 16 then 10 else 23

/-- The exponent bias. -/
def bias (w : Nat) : Int := if w = 8 then 7 else if w = 16 then 15 else 127

/-- The real number of a finite encoding of width 32, 16 or 8, in the words of R250 and R251: (-1)^S (1 + F / 2^f)
2^(E - bias), and (-1)^S (F / 2^f) 2^(1 - bias) when E = 0. -/
def fpReal {w : Nat} (x : BitVec w) : ℚ :=
  (if x.msb then -1 else 1) *
    (if x.toNat / 2 ^ fracBits w % 2 ^ (w - 1 - fracBits w) = 0 then
      ((x.toNat % 2 ^ fracBits w : Nat) : ℚ) / 2 ^ fracBits w * 2 ^ (1 - bias w)
    else
      (1 + ((x.toNat % 2 ^ fracBits w : Nat) : ℚ) / 2 ^ fracBits w) *
        2 ^ (((x.toNat / 2 ^ fracBits w % 2 ^ (w - 1 - fracBits w) : Nat) : Int) - bias w))

/-- The extended real of an encoding that is not a NaN (R262, R264). -/
def extReal (p : Impl) {w : Nat} (x : BitVec w) : WithBot (WithTop ℚ) :=
  if fpClass p x = .inf then (if x.msb then ⊥ else ((⊤ : WithTop ℚ) : WithBot (WithTop ℚ)))
  else (((fpReal x : ℚ) : WithTop ℚ) : WithBot (WithTop ℚ))

/-- A real result is delivered (R252, R254): exactly when an encoding has that value, and as the special result when
it is 0. -/
def Delivers (p : Impl) {w : Nat} (r : ℚ) (special e : BitVec w) : Prop :=
  (∀ y : BitVec w, fpClass p y = .finite → fpReal y = r → r ≠ 0 → e = y) ∧ (r = 0 → e = special)

/-- An arithmetic instruction on finite operands whose real result is defined delivers it; otherwise its result is
special (R254). -/
def Arithmetic (p : Impl) (op : FpOp) (defined : ℚ → ℚ → Prop) (r : ℚ → ℚ → ℚ) : LaneRel := fun w _ b c e =>
  if fpClass p b = .finite ∧ fpClass p c = .finite then
    (defined (fpReal b) (fpReal c) → Delivers p (r (fpReal b) (fpReal c)) (Config.fpSpecial op w b c) e) ∧
      (¬defined (fpReal b) (fpReal c) → e = Config.fpSpecial op w b c)
  else e = Config.fpSpecial op w b c

/-- Toward zero (R8). -/
def truncQ (q : ℚ) : Int := if 0 ≤ q then ⌊q⌋ else ⌈q⌉

/-- To nearest, halfway cases away from zero (R8). -/
def roundQ (q : ℚ) : Int := if 0 ≤ q then ⌊q + 1 / 2⌋ else ⌈q - 1 / 2⌉

/-- A conversion to an integer (R274 to R277): the clamped integer of a finite value scaled by 2^int(c), the limits for
the infinities, a special result for NaN. -/
def ToInteger (p : Impl) (op : FpOp) (clamp : Int → Nat → Int) (conv : ℚ → Int) (lo hi : Nat → Int) : LaneRel :=
  fun w _ b c e =>
    (fpClass p b = .finite → e = BitVec.ofInt w (clamp (conv (fpReal b * 2 ^ c.toInt)) w)) ∧
    (fpClass p b = .inf → e = BitVec.ofInt w (if b.msb then lo w else hi w)) ∧
    (fpClass p b = .nan → e = Config.fpSpecial op w b c)

/-- The conversion of an encoding to another format (R256): exact when that format has its value. -/
def Converts (p : Impl) (op : FpOp) {v w : Nat} (x : BitVec v) (e : BitVec w) : Prop :=
  if fpClass p x = .finite then Delivers p (fpReal x) (Config.fpSpecial op w x x) e
  else e = Config.fpSpecial op w x x

/-! ### What an instruction's row says (R74, R75, R88 to R92) -/

/-- The vector mode of an instruction word: V in format B, V with a low bit 0 in formats A and C; an instruction
without a V is scalar (R74, R135). -/
def vectorMode (i : Instr) : VMode :=
  match i with
  | .stb v .. | .sth v .. | .stw v .. | .ldb v .. | .ldh v .. | .ldw v .. | .ldub v .. | .lduh v ..
  | .ldea v .. | .and v .. | .or v .. | .xor v .. | .ebf v .. | .ebfu v .. | .mkbf v .. | .add v .. | .sub v ..
  | .min v .. | .max v .. | .minu v .. | .maxu v .. | .seq v .. | .sne v .. | .slt v .. | .sltu v ..
  | .sle v .. | .sleu v .. | .shuf v .. | .mul v .. | .div v .. | .divu v .. | .rem v .. | .remu v ..
  | .madd v .. | .sel v .. | .ibf v .. | .mulhi v .. | .mulhiu v .. | .mulq v .. | .mulqr v .. | .pack v ..
  | .packs v .. | .packsu v .. | .packhi v .. | .packhir v .. | .packhiur v .. | .fmin v .. | .fmax v ..
  | .fseq v .. | .fsne v .. | .fslt v .. | .fsle v .. | .fsunord v .. | .fsord v .. | .itof v .. | .utof v ..
  | .ftoi v .. | .ftou v .. | .ftoir v .. | .ftour v .. | .fpack v .. | .fadd v .. | .fsub v .. | .fmul v ..
  | .fdiv v .. | .adds v .. | .addsu v .. | .addh v .. | .addhu v .. | .addhr v .. | .addhur v .. | .subs v ..
  | .subsu v .. | .subh v .. | .subhu v .. | .subhr v .. | .subhur v .. => v
  | .clz v .. | .ctz v .. | .clo v .. | .cto v .. | .popcnt v .. | .rev v .. | .funpl v .. | .funph v ..
  | .crc32c v .. | .crc32 v .. | .stbI v .. | .sthI v .. | .stwI v .. | .ldbI v .. | .ldhI v .. | .ldwI v ..
  | .ldubI v .. | .lduhI v .. | .ldeaI v .. | .andI v .. | .orI v .. | .xorI v .. | .ebfI v .. | .ebfuI v ..
  | .mkbfI v .. | .addI v .. | .subI v .. | .minI v .. | .maxI v .. | .minuI v .. | .maxuI v .. | .seqI v ..
  | .sneI v .. | .sltI v .. | .sltuI v .. | .sleI v .. | .sleuI v .. | .shufI v .. | .mulI v .. | .divI v ..
  | .divuI v .. | .remI v .. | .remuI v .. | .maddI v .. | .selI v .. | .ibfI v .. => v.mode
  | .wait | .sync | .cctrl .. | .xchgsr .. | .xchgsrI .. | .j .. | .jl .. | .ldwpc .. | .stwpc .. | .addpc ..
  | .addpchi .. | .ldi .. | .bz .. | .bnz .. | .bs .. | .bns .. | .bltz .. | .bgez .. | .blez .. | .bgtz .. => .scalar

/-- The packed data type of an instruction word, a whole word where T says something else or is absent (R75, R133). -/
def packedType (i : Instr) : Packing :=
  match i with
  | .clz _ t .. | .ctz _ t .. | .clo _ t .. | .cto _ t .. | .popcnt _ t .. | .rev _ t .. | .funpl _ t ..
  | .funph _ t .. | .ebf _ t .. | .ebfu _ t .. | .mkbf _ t .. | .add _ t .. | .sub _ t .. | .min _ t ..
  | .max _ t .. | .minu _ t .. | .maxu _ t .. | .seq _ t .. | .sne _ t .. | .slt _ t .. | .sltu _ t ..
  | .sle _ t .. | .sleu _ t .. | .mul _ t .. | .div _ t .. | .divu _ t .. | .rem _ t .. | .remu _ t ..
  | .madd _ t .. | .ibf _ t .. | .mulhi _ t .. | .mulhiu _ t .. | .mulq _ t .. | .mulqr _ t .. | .pack _ t ..
  | .packs _ t .. | .packsu _ t .. | .packhi _ t .. | .packhir _ t .. | .packhiur _ t .. | .fmin _ t ..
  | .fmax _ t .. | .fseq _ t .. | .fsne _ t .. | .fslt _ t .. | .fsle _ t .. | .fsunord _ t .. | .fsord _ t ..
  | .itof _ t .. | .utof _ t .. | .ftoi _ t .. | .ftou _ t .. | .ftoir _ t .. | .ftour _ t .. | .fpack _ t ..
  | .fadd _ t .. | .fsub _ t .. | .fmul _ t .. | .fdiv _ t .. | .adds _ t .. | .addsu _ t .. | .addh _ t ..
  | .addhu _ t .. | .addhr _ t .. | .addhur _ t .. | .subs _ t .. | .subsu _ t .. | .subh _ t ..
  | .subhu _ t .. | .subhr _ t .. | .subhur _ t .. => t
  | .wait | .sync | .cctrl .. | .crc32c .. | .crc32 .. | .stb .. | .sth .. | .stw .. | .ldb .. | .ldh ..
  | .ldw .. | .ldub .. | .lduh .. | .ldea .. | .and .. | .or .. | .xor .. | .shuf .. | .xchgsr .. | .sel ..
  | .stbI .. | .sthI .. | .stwI .. | .ldbI .. | .ldhI .. | .ldwI .. | .ldubI .. | .lduhI .. | .ldeaI ..
  | .andI .. | .orI .. | .xorI .. | .ebfI .. | .ebfuI .. | .mkbfI .. | .addI .. | .subI .. | .minI ..
  | .maxI .. | .minuI .. | .maxuI .. | .seqI .. | .sneI .. | .sltI .. | .sltuI .. | .sleI .. | .sleuI ..
  | .shufI .. | .xchgsrI .. | .mulI .. | .divI .. | .divuI .. | .remI .. | .remuI .. | .maddI .. | .selI ..
  | .ibfI .. | .j .. | .jl .. | .ldwpc .. | .stwpc .. | .addpc .. | .addpchi .. | .ldi .. | .bz .. | .bnz ..
  | .bs .. | .bns .. | .bltz .. | .bgez .. | .blez .. | .bgtz .. => .word

/-- The modules column of an instruction's row (R88 to R92). -/
def rowModules (i : Instr) : List ArchModule :=
  match i with
  | .clz .. | .ctz .. | .clo .. | .cto .. | .popcnt .. | .rev .. | .wait | .sync | .cctrl .. | .crc32c ..
  | .crc32 .. | .stb .. | .sth .. | .stw .. | .ldb .. | .ldh .. | .ldw .. | .ldub .. | .lduh .. | .ldea ..
  | .and .. | .or .. | .xor .. | .ebf .. | .ebfu .. | .mkbf .. | .add .. | .sub .. | .min .. | .max ..
  | .minu .. | .maxu .. | .seq .. | .sne .. | .slt .. | .sltu .. | .sle .. | .sleu .. | .shuf .. | .xchgsr ..
  | .mul .. | .div .. | .divu .. | .rem .. | .remu .. | .madd .. | .sel .. | .ibf .. | .mulhi .. | .mulhiu ..
  | .stbI .. | .sthI .. | .stwI .. | .ldbI .. | .ldhI .. | .ldwI .. | .ldubI .. | .lduhI .. | .ldeaI ..
  | .andI .. | .orI .. | .xorI .. | .ebfI .. | .ebfuI .. | .mkbfI .. | .addI .. | .subI .. | .minI ..
  | .maxI .. | .minuI .. | .maxuI .. | .seqI .. | .sneI .. | .sltI .. | .sltuI .. | .sleI .. | .sleuI ..
  | .shufI .. | .xchgsrI .. | .mulI .. | .divI .. | .divuI .. | .remI .. | .remuI .. | .maddI .. | .selI ..
  | .ibfI .. | .j .. | .jl .. | .ldwpc .. | .stwpc .. | .addpc .. | .addpchi .. | .ldi .. | .bz .. | .bnz ..
  | .bs .. | .bns .. | .bltz .. | .bgez .. | .blez .. | .bgtz .. => []
  | .fmin .. | .fmax .. | .fseq .. | .fsne .. | .fslt .. | .fsle .. | .fsunord .. | .fsord .. | .itof ..
  | .utof .. | .ftoi .. | .ftou .. | .ftoir .. | .ftour .. | .fadd .. | .fsub .. | .fmul .. | .fdiv .. => [.fm]
  | .funpl .. | .funph .. | .fpack .. => [.fm, .pm]
  | .pack .. | .packhi .. => [.pm]
  | .packs .. | .packsu .. | .packhir .. | .packhiur .. => [.pm, .sm]
  | .mulq .. | .mulqr .. | .adds .. | .addsu .. | .addh .. | .addhu .. | .addhr .. | .addhur .. | .subs ..
  | .subsu .. | .subh .. | .subhu .. | .subhr .. | .subhur .. => [.sm]

/-- A format B floating-point instruction in every V and packed T, the relation depending on F8Special. -/
def RunsF (mk : VMode → Packing → Reg → Reg → Reg → Instr) (need : List ArchModule) (r : Impl → LaneRel) : Prop :=
  ∀ v t a b c s, Ready s v t need →
    Completes (mk v t a b c) s v a fun i e => Lanes t (r s.impl) (srcA v a s i) (srcB v b s i) (srcC v c s i) e

end Sys2Proof.Claims

section

open Sys2Proof Sys2Proof.Machine Sys2Proof.Claims

/-- At reset the invariant holds (R33, R360). The parameter values at reset are the model's choice: log entries 1, 7,
8 and 9. -/
def Obligations.ResetWellFormed : Prop :=
  State.reset.Inv

/-- The entries of R33 and R360 that are fixed: Z, VZ and the two system registers by the architecture; running, and
every stage clean, are the spec's own choice (decisions D27 and D23, log entry 28). -/
def Obligations.ResetFixedValues : Prop :=
  State.reset.reg Reg.z = 0#32 ∧ (∀ i, State.reset.elem Reg.z i = 0#32) ∧ State.reset.standby = false ∧
    (∀ x, State.reset.stage x = .clean) ∧
    State.reset.sysReg 0#32 = some (BitVec.ofNat 32
      (8 * State.reset.impl.hasSM.toNat + 4 * State.reset.impl.hasFM.toNat + 2 * State.reset.impl.hasPM.toNat +
        State.reset.impl.hasVM.toNat)) ∧
    State.reset.sysReg 16#32 =
      some (if State.reset.impl.hasVM = true then BitVec.ofNat 32 State.reset.impl.n else 0#32)

/-- R26: the value of CPU_FEATURES_0, and that it does not change while the processor runs. -/
def Obligations.SystemRegisterValues : Prop :=
  (∀ s : State, s.sysReg 0x0000#32 = some ((BitVec.ofNat 32 s.impl.hasSM.toNat <<< 3) |||
      (BitVec.ofNat 32 s.impl.hasFM.toNat <<< 2) ||| (BitVec.ofNat 32 s.impl.hasPM.toNat <<< 1) |||
      BitVec.ofNat 32 s.impl.hasVM.toNat)) ∧
    (∀ s t : State, step s = .next t → t.sysReg 0x0000#32 = s.sysReg 0x0000#32)

/-- R27: the value of MAX_VL, what it may be, and that it is a constant. -/
def Obligations.MaxVectorLength : Prop :=
  (∀ s : State, s.sysReg 0x0010#32 = some (if s.impl.hasVM = true then BitVec.ofNat 32 s.impl.n else 0#32)) ∧
    (∀ s : State, s.Inv → s.impl.hasVM = true → ∃ v k, s.sysReg 0x0010#32 = some v ∧ v.toNat = 2 ^ k ∧ 16 ≤ v.toNat ∧
      ∀ r : Fin 32, s.vregs[r].length = v.toNat) ∧
    (∀ s t : State, step s = .next t → t.sysReg 0x0010#32 = s.sysReg 0x0010#32)

/-- R21. -/
def Obligations.VectorZeroRegister : Prop :=
  (∀ (s : State) (i : Nat), s.elem 0#5 i = 0#32) ∧
    (∀ (s : State) (i : Nat) (v : Word), s.setElem 0#5 i v = s)

/-- R137: a step is the decoded instruction's meaning at the same state. -/
def Obligations.StepRunsDecoded : Prop :=
  ∀ (s : State) (i : Instr), s.halts = false → s.standby = false → s.pc.toNat % 4 = 0 →
    s.isMapped s.pc 4 .fetch = true → (∀ k < 4, s.stage (s.pc + BitVec.ofNat 32 k) = .clean) →
    decodeWord (wordAt s s.pc) = .ok i → step s = exec i s

/-- Words of the spec and the instructions they are. -/
def Obligations.DecodesSpecWords : Prop :=
  decodeWord 0x00220616#32 = .ok (.add .scalar .word 1#5 2#5 3#5) ∧
    decodeWord 0x00224716#32 = .ok (.add .fold .half 1#5 2#5 3#5) ∧
    decodeWord 0x5BBD3FF4#32 = .ok (.addI .scalar 29#5 29#5 0x3FF4#15) ∧
    decodeWord 0x28238004#32 = .ok (.ldwI .vector 1#5 3#5 4#15) ∧
    decodeWord 0x0084C50A#32 = .ok (.ldw .vecVec .x4 4#5 4#5 2#5) ∧
    decodeWord 0x00C711AE#32 = .ok (.sel .scalar .p231 6#5 7#5 8#5) ∧
    decodeWord 0x00222101#32 = .ok (.funph .scalar .half 1#5 2#5) ∧
    decodeWord 0x00224500#32 = .ok (.crc32c .scalar .w32 1#5 2#5) ∧
    decodeWord 0xC3C00000#32 = .ok (.j 30#5 0#21) ∧
    decodeWord 0xD837FFFF#32 = .ok (.ldi 1#5 0x17FFFF#21) ∧
    decodeWord 0xDC27FFF7#32 = .ok (.bnz 1#5 0x3FFF7#18) ∧
    decodeWord 0x00004000#32 = .ok .wait

/-- R95: the words with the three most significant bits set are reserved. -/
def Obligations.ReservedPrefixWords : Prop :=
  (∀ w : Word, w.extractLsb' 29 3 = 0b111#3 ↔ 0xE0000000 ≤ w.toNat) ∧
    (∀ w : Word, decodeWord w = .error .reservedPrefix ↔ w.extractLsb' 29 3 = 0b111#3) ∧
    (∀ i : Instr, (encode i).extractLsb' 29 3 ≠ 0b111#3)

/-- R46, R47, R56, R97, R137 (3) in the order of R343; the faults are the spec's decisions. -/
def Obligations.FetchFaultOrder : Prop :=
  ∀ s : State, s.halts = false → s.standby = false →
    (s.pc.toNat % 4 ≠ 0 → step s = .fault (.misalignedFetch s.pc s)) ∧
    (s.pc.toNat % 4 = 0 → s.isMapped s.pc 4 .fetch = false → step s = .fault (.accessFault s.pc .fetch s)) ∧
    (s.pc.toNat % 4 = 0 → s.isMapped s.pc 4 .fetch = true →
      (∃ k < 4, s.stage (s.pc + BitVec.ofNat 32 k) ≠ .clean) → step s = .fault (.staleInstructionFetch s.pc s)) ∧
    (s.pc.toNat % 4 = 0 → s.isMapped s.pc 4 .fetch = true → (∀ k < 4, s.stage (s.pc + BitVec.ofNat 32 k) = .clean) →
      ∀ e, decodeWord (wordAt s s.pc) = .error e → step s = .fault (.illegalInstruction (wordAt s s.pc) s))

/-- Decode and encode agree: no bit of an encoding is dropped. -/
def Obligations.DecodeOfEncode : Prop :=
  ∀ i : Instr, i.wellFormed = true → decodeWord (encode i) = .ok i

/-- The other direction: a word has at most one instruction, and an instruction one word. -/
def Obligations.EncodeOfDecode : Prop :=
  ∀ (w : Word) (i : Instr), decodeWord w = .ok i → i.wellFormed = true ∧ encode i = w

/-- R137 from reset; log entries 6 and 7 are the model's choices it rests on. -/
def Obligations.PlacedInstructionRuns : Prop :=
  ∀ i : Instr, i.wellFormed = true →
    step (State.reset.withFetchWord 32 (encode i).toNat) = exec i (State.reset.withFetchWord 32 (encode i).toNat)

/-- R78 to R83, for every value of the immediate field. -/
def Obligations.ImmediateExpansions : Prop :=
  (∀ im : BitVec 15, (∀ k < 32, (immI15 im).getLsbD k = im.getLsbD (min k 14)) ∧ (immI15 im).toInt = im.toInt ∧
      -16384 ≤ (immI15 im).toInt ∧ (immI15 im).toInt ≤ 16383) ∧
    (∀ im : BitVec 15, im.getLsbD 14 = false → (∀ k < 32, (immI15HL im).getLsbD k = im.getLsbD (min k 13)) ∧
      (immI15HL im).toInt = (im.setWidth 14).toInt ∧ -8192 ≤ (immI15HL im).toInt ∧ (immI15HL im).toInt ≤ 8191) ∧
    (∀ im : BitVec 15, im.getLsbD 14 = true →
      (∀ k < 32, (immI15HL im).getLsbD k = if k < 19 then im.getLsbD 0 else im.getLsbD (k - 18)) ∧
      (immI15HL im).toNat = (im.toNat % 16384) * 2 ^ 18 + if im.getLsbD 0 then 0x3FFFF else 0) ∧
    (∀ im : BitVec 21, im.getLsbD 20 = false → (∀ k < 32, (immI21HL im).getLsbD k = im.getLsbD (min k 19)) ∧
      (immI21HL im).toInt = (im.setWidth 20).toInt ∧ -524288 ≤ (immI21HL im).toInt ∧ (immI21HL im).toInt ≤ 524287) ∧
    (∀ im : BitVec 21, im.getLsbD 20 = true →
      (∀ k < 32, (immI21HL im).getLsbD k = if k < 13 then im.getLsbD 0 else im.getLsbD (k - 12)) ∧
      (immI21HL im).toNat = (im.toNat % 1048576) * 2 ^ 12 + if im.getLsbD 0 then 0xFFF else 0) ∧
    (∀ im : BitVec 21, (∀ k < 32, (immI21H im).getLsbD k = if k < 11 then false else im.getLsbD (k - 11)) ∧
      (immI21H im).toNat = im.toNat * 2 ^ 11 ∧ (immI21H im).toInt % 2048 = 0 ∧
      -2 ^ 31 ≤ (immI21H im).toInt ∧ (immI21H im).toInt ≤ 2 ^ 31 - 2048) ∧
    (∀ im : BitVec 21, (∀ k < 32, (immI21X4 im).getLsbD k = if k < 2 then false else im.getLsbD (min (k - 2) 20)) ∧
      (immI21X4 im).toInt = 4 * im.toInt ∧ -4194304 ≤ (immI21X4 im).toInt ∧ (immI21X4 im).toInt ≤ 4194300) ∧
    (∀ im : BitVec 18, (∀ k < 32, (immI18X4 im).getLsbD k = if k < 2 then false else im.getLsbD (min (k - 2) 17)) ∧
      (immI18X4 im).toInt = 4 * im.toInt ∧ -524288 ≤ (immI18X4 im).toInt ∧ (immI18X4 im).toInt ≤ 524284)

/-- The scales of R75 and the table of R150, in 32-bit arithmetic. -/
def Obligations.EffectiveAddresses : Prop :=
  (Scale.factor .x1 = 1 ∧ Scale.factor .x2 = 2 ∧ Scale.factor .x4 = 4 ∧ Scale.factor .x8 = 8) ∧
    ∀ (s : State) (b c : Reg) (t : Scale) (im : BitVec 15) (i : Nat),
    effAddr .scalar b (.reg c) (Scale.factor t) i s = s.reg b + s.reg c * BitVec.ofNat 32 (Scale.factor t) ∧
    effAddr .vecScalar b (.reg c) (Scale.factor t) i s =
      s.reg b + s.reg c * BitVec.ofNat 32 i * BitVec.ofNat 32 (Scale.factor t) ∧
    effAddr .vecVec b (.reg c) (Scale.factor t) i s = s.reg b + s.elem c i * BitVec.ofNat 32 (Scale.factor t) ∧
    effAddr .scalar b (.imm (immI15 im)) 1 i s = s.reg b + im.signExtend 32 ∧
    effAddr .vecScalar b (.imm (immI15 im)) 1 i s = s.reg b + im.signExtend 32 * BitVec.ofNat 32 i ∧
    effAddr .vecScalar b (.reg c) (Scale.factor t) 0 s = s.reg b

/-- R41, R42, R56: read after write. -/
def Obligations.WritesReadBack : Prop :=
  ∀ (s : State) (addr v : Word) (n : Nat), n ≤ 4 → Memory.wf s.mem = true → Stages.wf s.stages = true →
    (s.memWrite addr n v).memRead addr n = v.setWidth (8 * n) ∧
    (∀ x : Word, n ≤ (x - addr).toNat → (s.memWrite addr n v).byte x = s.byte x ∧
      (s.memWrite addr n v).stage x = s.stage x) ∧
    (∀ x : Word, (x - addr).toNat < n → (s.memWrite addr n v).stage x = .stored) ∧
    Memory.wf (s.memWrite addr n v).mem = true

/-- R170 to R175, format B. -/
def Obligations.AddMultiplyResults : Prop :=
  (RunsB Instr.add [] fun w _ b c e => e = BitVec.ofInt w (b.toInt + c.toInt)) ∧
    (RunsB Instr.sub [] fun w _ b c e => e = BitVec.ofInt w (c.toInt - b.toInt)) ∧
    (RunsB Instr.mul [] fun w _ b c e => e = BitVec.ofInt w (b.toInt * c.toInt)) ∧
    (RunsB Instr.madd [] fun w a b c e => e = BitVec.ofInt w (a.toInt + b.toInt * c.toInt)) ∧
    (RunsB Instr.mulhi [] fun w _ b c e => e = (b.signExtend (2 * w) * c.signExtend (2 * w)).extractLsb' w w) ∧
    (RunsB Instr.mulhiu [] fun w _ b c e => e = (b.setWidth (2 * w) * c.setWidth (2 * w)).extractLsb' w w)

/-- R176 to R179, format B; rounding and the zero divisor are decisions D8 and D9. -/
def Obligations.DivisionResults : Prop :=
  (RunsB Instr.div [] fun w _ b c e =>
      if c = 0#w then e = Config.divZero .div w b c else e = BitVec.ofInt w (truncQ ((b.toInt : ℚ) / c.toInt))) ∧
    (RunsB Instr.divu [] fun w _ b c e =>
      if c = 0#w then e = Config.divZero .divu w b c else e = BitVec.ofInt w ⌊(b.toNat : ℚ) / c.toNat⌋) ∧
    (RunsB Instr.rem [] fun w _ b c e =>
      if c = 0#w then e = Config.divZero .rem w b c
      else e = BitVec.ofInt w (b.toInt - c.toInt * truncQ ((b.toInt : ℚ) / c.toInt))) ∧
    (RunsB Instr.remu [] fun w _ b c e =>
      if c = 0#w then e = Config.divZero .remu w b c else e = BitVec.ofNat w (b.toNat % c.toNat))

/-- R180 to R183, formats B and C. -/
def Obligations.MinMaxResults : Prop :=
  (RunsB Instr.min [] fun _ _ b c e =>
      e = if b.toInt < c.toInt then b else c) ∧
    (RunsB Instr.max [] fun _ _ b c e =>
      e = if c.toInt < b.toInt then b else c) ∧
    (RunsB Instr.minu [] fun _ _ b c e =>
      e = if b.toNat < c.toNat then b else c) ∧
    (RunsB Instr.maxu [] fun _ _ b c e =>
      e = if c.toNat < b.toNat then b else c) ∧
    (RunsC Instr.minI fun _ _ b c e =>
      e = if b.toInt < c.toInt then b else c) ∧
    (RunsC Instr.maxI fun _ _ b c e =>
      e = if c.toInt < b.toInt then b else c) ∧
    (RunsC Instr.minuI fun _ _ b c e =>
      e = if b.toNat < c.toNat then b else c) ∧
    (RunsC Instr.maxuI fun _ _ b c e =>
      e = if c.toNat < b.toNat then b else c)

/-- R170 to R173 and R176 to R179, format C; rounding and the zero divisor are decisions D8 (log entry 19) and D9 (log
entry 12). -/
def Obligations.ImmediateArithmetic : Prop :=
  (RunsC Instr.addI fun w _ b c e =>
      e = BitVec.ofInt w (b.toInt + c.toInt)) ∧
    (RunsC Instr.subI fun w _ b c e =>
      e = BitVec.ofInt w (c.toInt - b.toInt)) ∧
    (RunsC Instr.mulI fun w _ b c e =>
      e = BitVec.ofInt w (b.toInt * c.toInt)) ∧
    (RunsC Instr.maddI fun w a b c e =>
      e = BitVec.ofInt w (a.toInt + b.toInt * c.toInt)) ∧
    (RunsC Instr.divI fun w _ b c e =>
      if c = 0#w then e = Config.divZero .div w b c else e = BitVec.ofInt w (truncQ ((b.toInt : ℚ) / c.toInt))) ∧
    (RunsC Instr.divuI fun w _ b c e =>
      if c = 0#w then e = Config.divZero .divu w b c else e = BitVec.ofInt w ⌊(b.toNat : ℚ) / c.toNat⌋) ∧
    (RunsC Instr.remI fun w _ b c e =>
      if c = 0#w then e = Config.divZero .rem w b c
      else e = BitVec.ofInt w (b.toInt - c.toInt * truncQ ((b.toInt : ℚ) / c.toInt))) ∧
    (RunsC Instr.remuI fun w _ b c e =>
      if c = 0#w then e = Config.divZero .remu w b c else e = BitVec.ofNat w (b.toNat % c.toNat))

/-- R184, R185, R164. -/
def Obligations.PcRelativeResults : Prop :=
  ∀ (s : State) (a : Reg) (im : BitVec 21),
    (Completes (.addpc a im) s .scalar a fun _ e => e = s.pc + BitVec.ofInt 32 (4 * im.toInt)) ∧
    (Completes (.addpchi a im) s .scalar a fun _ e => e = s.pc + BitVec.ofNat 32 (im.toNat * 2048)) ∧
    (Completes (.ldi a im) s .scalar a fun _ e => e = immI21HL im)

/-- R190 to R196. -/
def Obligations.ComparisonMasks : Prop :=
  (RunsB Instr.seq [] fun _ _ b c e =>
      IsMask e (b = c)) ∧
    (RunsB Instr.sne [] fun _ _ b c e =>
      IsMask e (b ≠ c)) ∧
    (RunsB Instr.slt [] fun _ _ b c e =>
      IsMask e (b.toInt < c.toInt)) ∧
    (RunsB Instr.sltu [] fun _ _ b c e =>
      IsMask e (b.toNat < c.toNat)) ∧
    (RunsB Instr.sle [] fun _ _ b c e =>
      IsMask e (b.toInt ≤ c.toInt)) ∧
    (RunsB Instr.sleu [] fun _ _ b c e =>
      IsMask e (b.toNat ≤ c.toNat)) ∧
    (RunsC Instr.seqI fun _ _ b c e =>
      IsMask e (b = c)) ∧
    (RunsC Instr.sneI fun _ _ b c e =>
      IsMask e (b ≠ c)) ∧
    (RunsC Instr.sltI fun _ _ b c e =>
      IsMask e (b.toInt < c.toInt)) ∧
    (RunsC Instr.sltuI fun _ _ b c e =>
      IsMask e (b.toNat < c.toNat)) ∧
    (RunsC Instr.sleI fun _ _ b c e =>
      IsMask e (b.toInt ≤ c.toInt)) ∧
    (RunsC Instr.sleuI fun _ _ b c e =>
      IsMask e (b.toNat ≤ c.toNat))

/-- R197 to R205: the whole next state. -/
def Obligations.ConditionalBranches : Prop :=
  ∀ (s : State) (a : Reg) (im : BitVec 18),
    exec (.bz a im) s =
      .next { s with
        pc := if s.reg a = 0#32 then s.pc + BitVec.ofInt 32 (4 * im.toInt) else s.pc + 4#32 } ∧
    exec (.bnz a im) s =
      .next { s with
        pc := if s.reg a ≠ 0#32 then s.pc + BitVec.ofInt 32 (4 * im.toInt) else s.pc + 4#32 } ∧
    exec (.bs a im) s =
      .next { s with
        pc := if s.reg a = BitVec.allOnes 32 then s.pc + BitVec.ofInt 32 (4 * im.toInt) else s.pc + 4#32 } ∧
    exec (.bns a im) s =
      .next { s with
        pc := if s.reg a ≠ BitVec.allOnes 32 then s.pc + BitVec.ofInt 32 (4 * im.toInt) else s.pc + 4#32 } ∧
    exec (.bltz a im) s =
      .next { s with
        pc := if (s.reg a).msb = true then s.pc + BitVec.ofInt 32 (4 * im.toInt) else s.pc + 4#32 } ∧
    exec (.bgez a im) s =
      .next { s with
        pc := if (s.reg a).msb = false then s.pc + BitVec.ofInt 32 (4 * im.toInt) else s.pc + 4#32 } ∧
    exec (.blez a im) s =
      .next { s with
        pc := if (s.reg a).toInt ≤ 0 then s.pc + BitVec.ofInt 32 (4 * im.toInt) else s.pc + 4#32 } ∧
    exec (.bgtz a im) s =
      .next { s with
        pc := if 0 < (s.reg a).toInt then s.pc + BitVec.ofInt 32 (4 * im.toInt) else s.pc + 4#32 }

/-- R206, R207. -/
def Obligations.Jumps : Prop :=
  ∀ (s : State) (a : Reg) (im : BitVec 21),
    exec (.j a im) s =
      .next { s with pc := (if a = 31#5 then s.pc else s.reg a) + BitVec.ofInt 32 (4 * im.toInt) } ∧
    ∃ t, exec (.jl a im) s = .next t ∧
      t.pc = (if a = 31#5 then s.pc else s.reg a) + BitVec.ofInt 32 (4 * im.toInt) ∧
      t.reg 30#5 = s.pc + 4#32 ∧ (∀ q, q ≠ 30#5 → t.reg q = s.reg q) ∧ (∀ q i, t.elem q i = s.elem q i) ∧
      (∀ x, t.byte x = s.byte x) ∧ (∀ x, t.stage x = s.stage x) ∧ t.standby = s.standby ∧ t.impl = s.impl ∧
      t.host = s.host

/-- R215 to R218. -/
def Obligations.LogicResults : Prop :=
  (∀ v t a b c s, Ready s v .word [] → Completes (.and v t a b c) s v a fun i e =>
      e = (if t = .np ∨ t = .nn then ~~~(srcB v b s i) else srcB v b s i) &&&
        (if t = .pn ∨ t = .nn then ~~~(srcC v c s i) else srcC v c s i)) ∧
    (∀ v t a b c s, Ready s v .word [] → Completes (.or v t a b c) s v a fun i e =>
      e = (if t = .np ∨ t = .nn then ~~~(srcB v b s i) else srcB v b s i) |||
        (if t = .pn ∨ t = .nn then ~~~(srcC v c s i) else srcC v c s i)) ∧
    (∀ v t a b c s, Ready s v .word [] → Completes (.xor v t a b c) s v a fun i e =>
      e = (if t = .np ∨ t = .nn then ~~~(srcB v b s i) else srcB v b s i) ^^^
        (if t = .pn ∨ t = .nn then ~~~(srcC v c s i) else srcC v c s i)) ∧
    (RunsC Instr.andI fun _ _ b c e =>
      e = b &&& c) ∧
    (RunsC Instr.orI fun _ _ b c e =>
      e = b ||| c) ∧
    (RunsC Instr.xorI fun _ _ b c e =>
      e = b ^^^ c)

/-- R219. -/
def Obligations.SelectResults : Prop :=
  (∀ v t a b c s, Ready s v .word [] → Completes (.sel v t a b c) s v a fun i e => ∀ j < 32,
      e.getLsbD j =
        match t with
        | .p123 => if (srcA v a s i).getLsbD j then (srcB v b s i).getLsbD j else (srcC v c s i).getLsbD j
        | .p132 => if (srcA v a s i).getLsbD j then (srcC v c s i).getLsbD j else (srcB v b s i).getLsbD j
        | .p213 => if (srcB v b s i).getLsbD j then (srcA v a s i).getLsbD j else (srcC v c s i).getLsbD j
        | .p231 => if (srcB v b s i).getLsbD j then (srcC v c s i).getLsbD j else (srcA v a s i).getLsbD j) ∧
    (RunsC Instr.selI fun w a b c e => ∀ j < w, e.getLsbD j = if a.getLsbD j then b.getLsbD j else c.getLsbD j)

/-- R225 to R229. -/
def Obligations.BitFieldResults : Prop :=
  (RunsB Instr.ebf [] fun w _ b c e =>
      ∀ j < w, e.getLsbD j = b.getLsbD (min (offsetOf c + min j (widthOf c - 1)) (w - 1))) ∧
    (RunsB Instr.ebfu [] fun w _ b c e =>
      ∀ j < w, e.getLsbD j = (decide (j < widthOf c) && b.getLsbD (offsetOf c + j))) ∧
    (RunsB Instr.mkbf [] fun w _ b c e =>
      ∀ j < w, e.getLsbD j = (decide (offsetOf c ≤ j ∧ j < offsetOf c + widthOf c) && b.getLsbD (j - offsetOf c))) ∧
    (RunsB Instr.ibf [] fun w a b c e =>
      ∀ j < w, e.getLsbD j =
        if offsetOf c ≤ j ∧ j < offsetOf c + widthOf c then b.getLsbD (j - offsetOf c) else a.getLsbD j) ∧
    (RunsC Instr.ebfI fun w _ b c e =>
      ∀ j < w, e.getLsbD j = b.getLsbD (min (offsetOf c + min j (widthOf c - 1)) (w - 1))) ∧
    (RunsC Instr.ebfuI fun w _ b c e =>
      ∀ j < w, e.getLsbD j = (decide (j < widthOf c) && b.getLsbD (offsetOf c + j))) ∧
    (RunsC Instr.mkbfI fun w _ b c e =>
      ∀ j < w, e.getLsbD j = (decide (offsetOf c ≤ j ∧ j < offsetOf c + widthOf c) && b.getLsbD (j - offsetOf c))) ∧
    (RunsC Instr.ibfI fun w a b c e =>
      ∀ j < w, e.getLsbD j =
        if offsetOf c ≤ j ∧ j < offsetOf c + widthOf c then b.getLsbD (j - offsetOf c) else a.getLsbD j)

/-- R230. -/
def Obligations.ShuffleResults : Prop :=
  (∀ v a b c s, Ready s v .word [] → Completes (.shuf v a b c) s v a fun i e =>
      (fun b c : Word => ∀ k < 4, e.extractLsb' (8 * k) 8 =
        if c.getLsbD (3 * k + 2) = false then b.extractLsb' (8 * (c.toNat / 2 ^ (3 * k) % 4)) 8
        else if c.getLsbD 12 = true ∧ b.getLsbD (8 * (c.toNat / 2 ^ (3 * k) % 4) + 7) = true then 0xFF#8
        else 0x00#8) (srcB v b s i) (srcC v c s i)) ∧
    (RunsC Instr.shufI fun _ _ b c e =>
      ∀ k < 4, e.extractLsb' (8 * k) 8 =
        if c.getLsbD (3 * k + 2) = false then b.extractLsb' (8 * (c.toNat / 2 ^ (3 * k) % 4)) 8
        else if c.getLsbD 12 = true ∧ b.getLsbD (8 * (c.toNat / 2 ^ (3 * k) % 4) + 7) = true then 0xFF#8
        else 0x00#8)

/-- R235 to R241. -/
def Obligations.CountingResults : Prop :=
  (RunsA Instr.clz [] fun w _ b _ e =>
      e.toNat ≤ w ∧ (∀ j < e.toNat, b.getLsbD (w - 1 - j) = false) ∧
        (e.toNat < w → b.getLsbD (w - 1 - e.toNat) = true)) ∧
    (RunsA Instr.ctz [] fun w _ b _ e =>
      e.toNat ≤ w ∧ (∀ j < e.toNat, b.getLsbD j = false) ∧
        (e.toNat < w → b.getLsbD e.toNat = true)) ∧
    (RunsA Instr.clo [] fun w _ b _ e =>
      e.toNat ≤ w ∧ (∀ j < e.toNat, b.getLsbD (w - 1 - j) = true) ∧
        (e.toNat < w → b.getLsbD (w - 1 - e.toNat) = false)) ∧
    (RunsA Instr.cto [] fun w _ b _ e =>
      e.toNat ≤ w ∧ (∀ j < e.toNat, b.getLsbD j = true) ∧
        (e.toNat < w → b.getLsbD e.toNat = false)) ∧
    (RunsA Instr.popcnt [] fun w _ b _ e =>
      e.toNat = ((List.range w).filter fun j => b.getLsbD j).length) ∧
    (RunsA Instr.rev [] fun w _ b _ e =>
      ∀ j < w, e.getLsbD (w - 1 - j) = b.getLsbD j)

/-- R243 to R246; the step functions are free (decision D29). -/
def Obligations.ChecksumResults : Prop :=
  (∀ v t a b s, Ready s v.mode .word [] → Completes (.crc32c v t a b) s v.mode a fun i e =>
      e = (match t with | .w8 => [0] | .w16 => [0, 8] | .w32 => [0, 8, 16, 24]).foldl
        (fun (r : Word) (k : Nat) => Config.crc32cStep r ((srcB v.mode b s i >>> k).setWidth 8)) (srcA v.mode a s i)) ∧
    (∀ v t a b s, Ready s v.mode .word [] → Completes (.crc32 v t a b) s v.mode a fun i e =>
      e = (match t with | .w8 => [0] | .w16 => [0, 8] | .w32 => [0, 8, 16, 24]).foldl
        (fun (r : Word) (k : Nat) => Config.crc32Step r ((srcB v.mode b s i >>> k).setWidth 8)) (srcA v.mode a s i))

/-- R252 (decision D10, log entry 13), R254, R255 (FpSpecial, log entry 14), R258 to R261. -/
def Obligations.FloatArithmetic : Prop :=
  (RunsF Instr.fadd [.fm] fun p =>
      Arithmetic p .fadd (fun _ _ => True) fun x y => x + y) ∧
    (RunsF Instr.fsub [.fm] fun p =>
      Arithmetic p .fsub (fun _ _ => True) fun x y => x - y) ∧
    (RunsF Instr.fmul [.fm] fun p =>
      Arithmetic p .fmul (fun _ _ => True) fun x y => x * y) ∧
    (RunsF Instr.fdiv [.fm] fun p =>
      Arithmetic p .fdiv (fun _ y => y ≠ 0) fun x y => x / y)

/-- R252: FpRound is a function of the format and the real (decision D10, log entry 13; the packs: decision D14). -/
def Obligations.RoundingOfOneReal : Prop :=
  ∃ rnd : Impl → (w : Nat) → ℚ → BitVec w,
    (RunsF Instr.fadd [.fm] fun p w _ b c e =>
      fpClass p b = .finite → fpClass p c = .finite → fpReal b + fpReal c ≠ 0 →
        e = rnd p w (fpReal b + fpReal c)) ∧
    (RunsF Instr.fsub [.fm] fun p w _ b c e =>
      fpClass p b = .finite → fpClass p c = .finite → fpReal b - fpReal c ≠ 0 →
        e = rnd p w (fpReal b - fpReal c)) ∧
    (RunsF Instr.fmul [.fm] fun p w _ b c e =>
      fpClass p b = .finite → fpClass p c = .finite → fpReal b * fpReal c ≠ 0 →
        e = rnd p w (fpReal b * fpReal c)) ∧
    (RunsF Instr.fdiv [.fm] fun p w _ b c e =>
      fpClass p b = .finite → fpClass p c = .finite → fpReal c ≠ 0 → fpReal b / fpReal c ≠ 0 →
        e = rnd p w (fpReal b / fpReal c)) ∧
    (RunsF Instr.itof [.fm] fun p w _ b c e =>
      b.toInt ≠ 0 → e = rnd p w ((b.toInt : ℚ) * 2 ^ (-c.toInt))) ∧
    (RunsF Instr.utof [.fm] fun p w _ b c e =>
      b.toNat ≠ 0 → e = rnd p w ((b.toNat : ℚ) * 2 ^ (-c.toInt))) ∧
    (∀ v t a b c s, t ≠ .byte → Ready s v t [.fm, .pm] → Completes (.fpack v t a b c) s v a fun i e =>
      Lanes t (fun w _ b c e =>
          (fpClass s.impl b = .finite → fpReal b ≠ 0 →
            e.extractLsb' (w / 2) (w / 2) = rnd s.impl (w / 2) (fpReal b)) ∧
          (fpClass s.impl c = .finite → fpReal c ≠ 0 →
            e.extractLsb' 0 (w / 2) = rnd s.impl (w / 2) (fpReal c)))
        (srcA v a s i) (srcB v b s i) (srcC v c s i) e) ∧
    (∀ v t a b s, t ≠ .byte → Ready s v.mode t [.fm, .pm] → Completes (.funpl v t a b) s v.mode a fun i e =>
      Lanes t (fun w _ b _ e => fpClass s.impl (b.extractLsb' 0 (w / 2)) = .finite →
          fpReal (b.extractLsb' 0 (w / 2)) ≠ 0 → e = rnd s.impl w (fpReal (b.extractLsb' 0 (w / 2))))
        (srcA v.mode a s i) (srcB v.mode b s i) 0#32 e) ∧
    (∀ v t a b s, t ≠ .byte → Ready s v.mode t [.fm, .pm] → Completes (.funph v t a b) s v.mode a fun i e =>
      Lanes t (fun w _ b _ e => fpClass s.impl (b.extractLsb' (w / 2) (w / 2)) = .finite →
          fpReal (b.extractLsb' (w / 2) (w / 2)) ≠ 0 → e = rnd s.impl w (fpReal (b.extractLsb' (w / 2) (w / 2))))
        (srcA v.mode a s i) (srcB v.mode b s i) 0#32 e) ∧
    (∀ (p : Impl) (w : Nat) (y : BitVec w), w = 8 ∨ w = 16 ∨ w = 32 → fpClass p y = .finite → fpReal y ≠ 0 →
      rnd p w (fpReal y) = y)

/-- R262, R263 (infinities as extended reals: decision D11). -/
def Obligations.FloatMinMax : Prop :=
  (RunsF Instr.fmin [.fm] fun p =>
      fun w _ b c e =>
        if fpIsNan p b = true ∨ fpIsNan p c = true then e = Config.fpSpecial .fmin w b c
        else (extReal p b < extReal p c → e = b) ∧ (extReal p c < extReal p b → e = c) ∧
          (b = c → e = b) ∧ (extReal p b = extReal p c → b ≠ c → e = Config.fpSpecial .fmin w b c)) ∧
    (RunsF Instr.fmax [.fm] fun p =>
      fun w _ b c e =>
        if fpIsNan p b = true ∨ fpIsNan p c = true then e = Config.fpSpecial .fmax w b c
        else (extReal p b < extReal p c → e = c) ∧ (extReal p c < extReal p b → e = b) ∧
          (b = c → e = b) ∧ (extReal p b = extReal p c → b ≠ c → e = Config.fpSpecial .fmax w b c))

/-- R264 to R270 (decision D11). -/
def Obligations.FloatComparisonMasks : Prop :=
  (RunsF Instr.fseq [.fm] fun p =>
      fun _ _ b c e => IsMask e (fpIsNan p b = false ∧ fpIsNan p c = false ∧ extReal p b = extReal p c)) ∧
    (RunsF Instr.fsne [.fm] fun p =>
      fun _ _ b c e => IsMask e (¬(fpIsNan p b = false ∧ fpIsNan p c = false ∧ extReal p b = extReal p c))) ∧
    (RunsF Instr.fslt [.fm] fun p =>
      fun _ _ b c e => IsMask e (fpIsNan p b = false ∧ fpIsNan p c = false ∧ extReal p b < extReal p c)) ∧
    (RunsF Instr.fsle [.fm] fun p =>
      fun _ _ b c e => IsMask e (fpIsNan p b = false ∧ fpIsNan p c = false ∧ extReal p b ≤ extReal p c)) ∧
    (RunsF Instr.fsunord [.fm] fun p =>
      fun _ _ b c e => IsMask e (fpIsNan p b = true ∨ fpIsNan p c = true)) ∧
    (RunsF Instr.fsord [.fm] fun p =>
      fun _ _ b c e => IsMask e (fpIsNan p b = false ∧ fpIsNan p c = false))

/-- R253, R256; the pattern is IEEE 754's, which the spec marks as general knowledge, and for float8 decision D12. -/
def Obligations.FloatClasses : Prop :=
  ∀ p : Impl,
    (∀ x : BitVec 32, fpClass p x = if x.extractLsb' 23 8 ≠ 0xFF#8 then .finite
      else if x.extractLsb' 0 23 = 0#23 then .inf else .nan) ∧
    (∀ x : BitVec 16, fpClass p x = if x.extractLsb' 10 5 ≠ 0x1F#5 then .finite
      else if x.extractLsb' 0 10 = 0#10 then .inf else .nan) ∧
    (∀ x : BitVec 8, (∀ c ∈ p.f8Class, c.1 ≠ x) → fpClass p x = if x.extractLsb' 3 4 ≠ 0xF#4 then .finite
      else if x.extractLsb' 0 3 = 0#3 then .inf else .nan) ∧
    (∀ (x : BitVec 8) (l l' : List (Byte × FpClass)) (k : FpClass), p.f8Class = l ++ (x, k) :: l' →
      (∀ c ∈ l, c.1 ≠ x) → fpClass p x = k)

/-- R271 to R273; exactness is R252 (decision D10, log entry 13), the zero result FpSpecial (R254, log entry 14). -/
def Obligations.IntegerToFloat : Prop :=
  (RunsF Instr.itof [.fm] fun p =>
      fun w _ b c e =>
        Delivers p ((b.toInt : ℚ) * 2 ^ (-c.toInt)) (Config.fpSpecial .itof w b c) e) ∧
    (RunsF Instr.utof [.fm] fun p =>
      fun w _ b c e =>
        Delivers p ((b.toNat : ℚ) * 2 ^ (-c.toInt)) (Config.fpSpecial .utof w b c) e)

/-- R271, R274 to R277 (infinities: decision D13). -/
def Obligations.FloatToInteger : Prop :=
  (RunsF Instr.ftoi [.fm] fun p =>
      ToInteger p .ftoi clampS truncQ (fun w => -(2 ^ (w - 1))) (fun w => 2 ^ (w - 1) - 1)) ∧
    (RunsF Instr.ftou [.fm] fun p =>
      ToInteger p .ftou clampU truncQ (fun _ => 0) (fun w => 2 ^ w - 1)) ∧
    (RunsF Instr.ftoir [.fm] fun p =>
      ToInteger p .ftoir clampS roundQ (fun w => -(2 ^ (w - 1))) (fun w => 2 ^ (w - 1) - 1)) ∧
    (RunsF Instr.ftour [.fm] fun p =>
      ToInteger p .ftour clampU roundQ (fun _ => 0) (fun w => 2 ^ w - 1))

/-- R290 to R296 (PACKHIR's halves: decision D30). -/
def Obligations.PackResults : Prop :=
  (RunsB Instr.pack [.pm] fun w _ b c e =>
      e.extractLsb' (w / 2) (w / 2) = b.extractLsb' 0 (w / 2) ∧ e.extractLsb' 0 (w / 2) = c.extractLsb' 0 (w / 2)) ∧
    (RunsB Instr.packhi [.pm] fun w _ b c e =>
      e.extractLsb' (w / 2) (w / 2) = b.extractLsb' (w / 2) (w / 2) ∧
        e.extractLsb' 0 (w / 2) = c.extractLsb' (w / 2) (w / 2)) ∧
    (RunsB Instr.packs [.sm, .pm] fun w _ b c e =>
      e.extractLsb' (w / 2) (w / 2) = BitVec.ofInt (w / 2) (clampS b.toInt (w / 2)) ∧
        e.extractLsb' 0 (w / 2) = BitVec.ofInt (w / 2) (clampS c.toInt (w / 2))) ∧
    (RunsB Instr.packsu [.sm, .pm] fun w _ b c e =>
      e.extractLsb' (w / 2) (w / 2) = BitVec.ofInt (w / 2) (clampU b.toNat (w / 2)) ∧
        e.extractLsb' 0 (w / 2) = BitVec.ofInt (w / 2) (clampU c.toNat (w / 2))) ∧
    (RunsB Instr.packhir [.sm, .pm] fun w _ b c e =>
      e.extractLsb' (w / 2) (w / 2) =
          (BitVec.ofInt w (clampS (b.toInt + 2 ^ (w / 2 - 1)) w)).extractLsb' (w / 2) (w / 2) ∧
        e.extractLsb' 0 (w / 2) = (BitVec.ofInt w (clampS (c.toInt + 2 ^ (w / 2 - 1)) w)).extractLsb' (w / 2) (w / 2)) ∧
    (RunsB Instr.packhiur [.sm, .pm] fun w _ b c e =>
      e.extractLsb' (w / 2) (w / 2) =
          (BitVec.ofInt w (clampU (b.toNat + 2 ^ (w / 2 - 1)) w)).extractLsb' (w / 2) (w / 2) ∧
        e.extractLsb' 0 (w / 2) = (BitVec.ofInt w (clampU (c.toNat + 2 ^ (w / 2 - 1)) w)).extractLsb' (w / 2) (w / 2))

/-- R297 to R299, R256 (decision D14, log entry 22); exactness is R252 (decision D10, log entry 13), and the special
results are FpSpecial, one for FUNPL and FUNPH (log entry 14). -/
def Obligations.FloatPackResults : Prop :=
  (∀ v t a b c s, t ≠ .byte → Ready s v t [.fm, .pm] → Completes (.fpack v t a b c) s v a fun i e =>
      Lanes t (fun w _ b c e => Converts s.impl .fpack b (e.extractLsb' (w / 2) (w / 2)) ∧
          Converts s.impl .fpack c (e.extractLsb' 0 (w / 2)))
        (srcA v a s i) (srcB v b s i) (srcC v c s i) e) ∧
    (∀ v t a b s, t ≠ .byte → Ready s v.mode t [.fm, .pm] → Completes (.funpl v t a b) s v.mode a fun i e =>
      Lanes t (fun w _ b _ e => Converts s.impl .funpl (b.extractLsb' 0 (w / 2)) e)
        (srcA v.mode a s i) (srcB v.mode b s i) 0#32 e) ∧
    (∀ v t a b s, t ≠ .byte → Ready s v.mode t [.fm, .pm] → Completes (.funph v t a b) s v.mode a fun i e =>
      Lanes t (fun w _ b _ e => Converts s.impl .funpl (b.extractLsb' (w / 2) (w / 2)) e)
        (srcA v.mode a s i) (srcB v.mode b s i) 0#32 e)

/-- R305 to R309, R318 to R320. -/
def Obligations.SaturatingResults : Prop :=
  (RunsB Instr.adds [.sm] fun w _ b c e =>
      e = BitVec.ofInt w (clampS (b.toInt + c.toInt) w)) ∧
    (RunsB Instr.addsu [.sm] fun w _ b c e =>
      e = BitVec.ofInt w (clampU (b.toNat + c.toNat) w)) ∧
    (RunsB Instr.subs [.sm] fun w _ b c e =>
      e = BitVec.ofInt w (clampS (b.toInt - c.toInt) w)) ∧
    (RunsB Instr.subsu [.sm] fun w _ b c e =>
      e = if b.toNat < c.toNat then 0#w else b - c) ∧
    (RunsB Instr.mulq [.sm] fun w _ b c e =>
      e = BitVec.ofInt w (clampS (b.toInt * c.toInt / 2 ^ (w - 1)) w)) ∧
    (RunsB Instr.mulqr [.sm] fun w _ b c e =>
      e = BitVec.ofInt w (clampS ((b.toInt * c.toInt + 2 ^ (w - 2)) / 2 ^ (w - 1)) w))

/-- R305, R310 to R317. -/
def Obligations.HalvingResults : Prop :=
  (RunsB Instr.addh [.sm] fun w _ b c e =>
      e = BitVec.ofInt w ⌊((b.toInt + c.toInt) : ℚ) / 2⌋) ∧
    (RunsB Instr.addhu [.sm] fun w _ b c e =>
      e = BitVec.ofInt w ⌊((b.toNat + c.toNat) : ℚ) / 2⌋) ∧
    (RunsB Instr.addhr [.sm] fun w _ b c e =>
      e = BitVec.ofInt w ⌊((b.toInt + c.toInt + 1) : ℚ) / 2⌋) ∧
    (RunsB Instr.addhur [.sm] fun w _ b c e =>
      e = BitVec.ofInt w ⌊((b.toNat + c.toNat + 1) : ℚ) / 2⌋) ∧
    (RunsB Instr.subh [.sm] fun w _ b c e =>
      e = BitVec.ofInt w ⌊((b.toInt - c.toInt) : ℚ) / 2⌋) ∧
    (RunsB Instr.subhu [.sm] fun w _ b c e =>
      e = BitVec.ofInt w ⌊((b.toNat - c.toNat) : ℚ) / 2⌋) ∧
    (RunsB Instr.subhr [.sm] fun w _ b c e =>
      e = BitVec.ofInt w ⌊((b.toInt - c.toInt + 1) : ℚ) / 2⌋) ∧
    (RunsB Instr.subhur [.sm] fun w _ b c e =>
      e = BitVec.ofInt w ⌊((b.toNat - c.toNat + 1) : ℚ) / 2⌋)

/-- R150 to R157. -/
def Obligations.LoadResults : Prop :=
  (LoadsB Instr.ldb 1 fun s x => (s.byte x).signExtend 32) ∧
    (LoadsB Instr.ldh 2 fun s x => (halfAt s x).signExtend 32) ∧
    (LoadsB Instr.ldw 4 fun s x => wordAt s x) ∧
    (LoadsB Instr.ldub 1 fun s x => (s.byte x).setWidth 32) ∧
    (LoadsB Instr.lduh 2 fun s x => (halfAt s x).setWidth 32) ∧
    (LoadsC Instr.ldbI 1 fun s x => (s.byte x).signExtend 32) ∧
    (LoadsC Instr.ldhI 2 fun s x => (halfAt s x).signExtend 32) ∧
    (LoadsC Instr.ldwI 4 fun s x => wordAt s x) ∧
    (LoadsC Instr.ldubI 1 fun s x => (s.byte x).setWidth 32) ∧
    (LoadsC Instr.lduhI 2 fun s x => (halfAt s x).setWidth 32)

/-- R158. -/
def Obligations.LoadAddressResults : Prop :=
  (∀ v t a b c s, v ≠ .fold → Ready s v .word [] → Completes (.ldea v t a b c) s v a fun i e =>
      e = effAddr v b (.reg c) (Scale.factor t) i s) ∧
    (∀ v a b im s, Ready s v.mode .word [] → Completes (.ldeaI v a b im) s v.mode a fun i e =>
      e = effAddr v.mode b (.imm (immI15 im)) 1 i s)

/-- R150, R152, R159 to R161, R52. -/
def Obligations.StoreResults : Prop :=
  StoresB Instr.stb 1 ∧ StoresC Instr.stbI 1 ∧
    StoresB Instr.sth 2 ∧ StoresC Instr.sthI 2 ∧
    StoresB Instr.stw 4 ∧ StoresC Instr.stwI 4

/-- R162, R163; the faults of R45 and R47 in the order of R343 are decisions D4, D28 and D25 (log entry 18). -/
def Obligations.PcRelativeAccess : Prop :=
  ∀ (s : State) (a : Reg) (im : BitVec 21) (x : Word), s.Inv → x = s.pc + BitVec.ofInt 32 (4 * im.toInt) →
    (x.toNat % 4 = 0 → s.isMapped x 4 .read = true → Completes (.ldwpc a im) s .scalar a fun _ e => e = wordAt s x) ∧
    (x.toNat % 4 = 0 → s.isMapped x 4 .write = true →
      ∃ t, exec (.stwpc a im) s = .next t ∧ Stores s t 1 4 (fun _ => x) fun _ => s.reg a) ∧
    (¬(x.toNat % 4 = 0 ∧ s.isMapped x 4 .read = true) → exec (.ldwpc a im) s = .fault (badAccess s x 4 .read)) ∧
    (¬(x.toNat % 4 = 0 ∧ s.isMapped x 4 .write = true) →
      exec (.stwpc a im) s = .fault (badAccess s x 4 .write))

/-- R45, R47 in the order of R343; R138 (decision D25). The faults are decisions of the spec. -/
def Obligations.LoadFaults : Prop :=
  (LoadStopsB Instr.ldb 1 fun s x => (s.byte x).signExtend 32) ∧
    (LoadStopsB Instr.ldh 2 fun s x => (halfAt s x).signExtend 32) ∧
    (LoadStopsB Instr.ldw 4 fun s x => wordAt s x) ∧
    (LoadStopsB Instr.ldub 1 fun s x => (s.byte x).setWidth 32) ∧
    (LoadStopsB Instr.lduh 2 fun s x => (halfAt s x).setWidth 32) ∧
    (LoadStopsC Instr.ldbI 1 fun s x => (s.byte x).signExtend 32) ∧
    (LoadStopsC Instr.ldhI 2 fun s x => (halfAt s x).signExtend 32) ∧
    (LoadStopsC Instr.ldwI 4 fun s x => wordAt s x) ∧
    (LoadStopsC Instr.ldubI 1 fun s x => (s.byte x).setWidth 32) ∧
    (LoadStopsC Instr.lduhI 2 fun s x => (halfAt s x).setWidth 32)

/-- R45, R47 in the order of R343; R138 (decision D25). The faults are decisions of the spec. -/
def Obligations.StoreFaults : Prop :=
  StoreStopsB Instr.stb 1 ∧ StoreStopsC Instr.stbI 1 ∧
    StoreStopsB Instr.sth 2 ∧ StoreStopsC Instr.sthI 2 ∧
    StoreStopsB Instr.stw 4 ∧ StoreStopsC Instr.stwI 4

/-- R22, R128 (decisions D15, D16, log entry 18). -/
def Obligations.VectorLengthFaults : Prop :=
  ∀ (i : Instr) (s : State), i.wellFormed = true → (∀ m ∈ i.modules, s.impl.has m = true) →
    (vectorMode i = .vecScalar ∨ vectorMode i = .vecVec → s.impl.elements < s.vl →
      exec i s = .fault (.vectorLengthFault (s.reg 31#5) s)) ∧
    (vectorMode i = .fold → s.impl.elements < 2 * s.vl → exec i s = .fault (.vectorLengthFault (s.reg 31#5) s))

/-- R133 (decision D7), R93, R97 (decision D6); the fault of an ill-formed term is the model's choice, log entry 26.
-/
def Obligations.ModuleRequirements : Prop :=
  (∀ (i : Instr) (s : State) (m : ArchModule), i.wellFormed = true → m ∈ i.modules → s.impl.has m = false →
      exec i s = .fault (.illegalInstruction (encode i) s)) ∧
    (∀ (i : Instr) (m : ArchModule), m ∈ i.modules ↔
      m ∈ rowModules i ∨ (m = .vm ∧ vectorMode i ≠ .scalar) ∨ (m = .pm ∧ packedType i ≠ .word)) ∧
    (∀ (i : Instr) (s : State), i.wellFormed = false → exec i s = .fault (.illegalInstruction (encode i) s))

/-- R325, R25, R27, R28 (faults: decision D19). -/
def Obligations.SystemRegisterExchange : Prop :=
  ∀ (s : State) (a c : Reg) (im : BitVec 15),
    (s.reg c = 0#32 → Completes (.xchgsr a 0#5 c) s .scalar a fun _ e =>
      e = BitVec.ofNat 32 (8 * s.impl.hasSM.toNat + 4 * s.impl.hasFM.toNat + 2 * s.impl.hasPM.toNat +
        s.impl.hasVM.toNat)) ∧
    (s.reg c = 16#32 → Completes (.xchgsr a 0#5 c) s .scalar a fun _ e =>
      e = if s.impl.hasVM = true then BitVec.ofNat 32 s.impl.n else 0#32) ∧
    (Completes (.xchgsr 0#5 0#5 c) s .scalar 0#5 fun _ _ => True) ∧
    (immI15HL im = 0#32 → Completes (.xchgsrI a 0#5 im) s .scalar a fun _ e =>
      e = BitVec.ofNat 32 (8 * s.impl.hasSM.toNat + 4 * s.impl.hasFM.toNat + 2 * s.impl.hasPM.toNat +
        s.impl.hasVM.toNat)) ∧
    (immI15HL im = 16#32 → Completes (.xchgsrI a 0#5 im) s .scalar a fun _ e =>
      e = if s.impl.hasVM = true then BitVec.ofNat 32 s.impl.n else 0#32) ∧
    (Completes (.xchgsrI 0#5 0#5 im) s .scalar 0#5 fun _ _ => True) ∧
    (∀ b : Reg, ¬(a = 0#5 ∧ b = 0#5) →
      (s.reg c ≠ 0#32 → s.reg c ≠ 16#32 → exec (.xchgsr a b c) s = .fault (.unknownSystemRegister (s.reg c) s)) ∧
      (s.reg c = 0#32 ∨ s.reg c = 16#32 → b ≠ 0#5 →
        exec (.xchgsr a b c) s = .fault (.readOnlySystemRegister (s.reg c) s)) ∧
      (immI15HL im ≠ 0#32 → immI15HL im ≠ 16#32 →
        exec (.xchgsrI a b im) s = .fault (.unknownSystemRegister (immI15HL im) s)) ∧
      (immI15HL im = 0#32 ∨ immI15HL im = 16#32 → b ≠ 0#5 →
        exec (.xchgsrI a b im) s = .fault (.readOnlySystemRegister (immI15HL im) s)))

/-- R327 (decision D20; the stream as data: log entry 10). -/
def Obligations.WaitAndStandby : Prop :=
  (∀ s : State, exec .wait s = .next { s with pc := s.pc + 4#32, standby := true }) ∧
    (∀ (s : State) (l : List Bool) (k : Nat), s.halts = false → s.standby = true →
      (s.host.wakes = true :: l → step s = .next { s with standby := false, host := { s.host with wakes := l } }) ∧
      (s.host.wakes = false :: l → step s = .next { s with host := { s.host with wakes := l } }) ∧
      (s.host.wakes = [] → s.host.wakesThen = some k →
        step s = .next { s with standby := !Config.wake k, host := { s.host with wakesThen := some (k + 1) } }) ∧
      (s.host.wakes = [] → s.host.wakesThen = none → step s = .next s))

/-- R328, R329 (stages: decision D23). -/
def Obligations.SyncResult : Prop :=
  ∀ s : State, s.Inv → ∃ t, exec .sync s = .next t ∧ (∀ q, t.reg q = s.reg q) ∧ (∀ q i, t.elem q i = s.elem q i) ∧
    (∀ x, t.byte x = s.byte x) ∧ t.pc = s.pc + 4#32 ∧ t.standby = s.standby ∧ t.impl = s.impl ∧ t.host = s.host ∧
    (∀ x, t.stage x = if s.stage x = .invalidated then .clean else s.stage x)

/-- R329 (decision D23). -/
def Obligations.CacheControlResult : Prop :=
  ∀ (s : State) (a b : Reg) (dirty : Prop), s.Inv →
    (dirty ↔ (s.reg b = 0x001#32 ∧ ∃ x, s.stage x = .stored) ∨
      (s.reg b = 0x101#32 ∧ ∃ x, s.stage x = .stored ∧
        x.toNat / s.impl.cacheLine = (s.reg a).toNat / s.impl.cacheLine)) →
    (¬dirty → ∃ t, exec (.cctrl a b) s = .next t ∧ (∀ q, t.reg q = s.reg q) ∧ (∀ q i, t.elem q i = s.elem q i) ∧
      (∀ x, t.byte x = s.byte x) ∧ t.pc = s.pc + 4#32 ∧ t.standby = s.standby ∧ t.impl = s.impl ∧ t.host = s.host ∧
      (∀ x, t.stage x =
        if s.stage x = .stored ∧ (s.reg b = 0x201#32 ∨ (s.reg b = 0x301#32 ∧
          x.toNat / s.impl.cacheLine = (s.reg a).toNat / s.impl.cacheLine)) then .flushed
        else if s.stage x = .flushed ∧ (s.reg b = 0x000#32 ∨ (s.reg b = 0x100#32 ∧
          x.toNat / s.impl.cacheLine = (s.reg a).toNat / s.impl.cacheLine)) then .invalidated
        else s.stage x)) ∧
    (dirty → exec (.cctrl a b) s = .fault (.dirtyDataInvalidate (s.reg a) (s.reg b) s))

/-- R372 (decision D23). -/
def Obligations.StoredCodeBecomesFetchable : Prop :=
  ∀ (s : State) (a b c d : Reg), s.Inv → s.reg b = 0x201#32 → s.reg d = 0#32 →
    ∃ t u w, exec (.cctrl a b) s = .next t ∧ exec (.cctrl c d) t = .next u ∧ exec .sync u = .next w ∧
      (∀ x, w.stage x = .clean) ∧ (∀ x, w.byte x = s.byte x) ∧ (∀ q, w.reg q = s.reg q) ∧
      (∀ q i, w.elem q i = s.elem q i) ∧ w.pc = s.pc + 12#32

/-- The invariant of Safety is kept by every step. -/
def Obligations.StepKeepsInvariant : Prop :=
  ∀ s t : State, s.Inv → step s = .next t → t.Inv

/-- R208, R18 (pc + 4: decision D3). -/
def Obligations.OnlyBranchesMovePc : Prop :=
  ∀ (i : Instr) (s t : State), isControlFlow i = false → exec i s = .next t → t.pc = s.pc + 4#32

/-- R18, R197, R206; a moment of standby: R327. -/
def Obligations.PcStaysAligned : Prop :=
  (∀ (i : Instr) (s t : State), s.pc.toNat % 4 = 0 → exec i s = .next t →
    match i with
    | .j a _ => (t.pc.toNat % 4 = 0 ↔ a = 31#5 ∨ (s.reg a).toNat % 4 = 0)
    | .jl a _ => (t.pc.toNat % 4 = 0 ↔ a = 31#5 ∨ (s.reg a).toNat % 4 = 0)
    | _ => t.pc.toNat % 4 = 0) ∧
    (∀ s t : State, s.standby = true → step s = .next t → t.pc = s.pc)

/-- Which instructions touch memory. -/
def Obligations.OnlyStoresChangeMemory : Prop :=
  ∀ (i : Instr) (s t : State), isStore i = false → exec i s = .next t → (∀ x, t.byte x = s.byte x) ∧
    ((∀ a b, i ≠ .cctrl a b) → i ≠ .sync → ∀ x, t.stage x = s.stage x)

/-- The register frame of every instruction at once. -/
def Obligations.RegistersKept : Prop :=
  ∀ (i : Instr) (s t : State), s.Inv → exec i s = .next t → t.impl = s.impl ∧ t.host = s.host ∧
    (∀ q, (∀ d, destination i = some d → q ≠ d) → t.reg q = s.reg q) ∧
    (∀ q k, (∀ d, destination i = some d → q ≠ d) → t.elem q k = s.elem q k)

/-- R327. -/
def Obligations.OnlyWaitEntersStandby : Prop :=
  ∀ (i : Instr) (s t : State), exec i s = .next t → (t.standby = true ↔ s.standby = true ∨ i = .wait)

/-- R341, R366 (Halt as data: log entry 11). -/
def Obligations.NoInstructionIsRefused : Prop :=
  (∀ (i : Instr) (s : State) (e : Refusal), exec i s ≠ .refused e) ∧
    (∀ (s : State) (e : Refusal), step s = .refused e ↔ s.halts = true ∧ e = .halted s) ∧
    (∀ (s : State) (a : Word), s.host.halt = .pcIs a → (step s = .refused (.halted s) ↔ s.pc = a)) ∧
    (∀ s : State, s.host.halt = .both .inStandby .noWakeLeft →
      (step s = .refused (.halted s) ↔ s.standby = true ∧ s.host.wakes = [] ∧ s.host.wakesThen = none))

end
end

