-- ==== Sys2Proof/Laws/State.lean ====
section
/-! SUPPORT. One lemma for each field of State and each state update, and for each reader an update leaves alone. -/

namespace Sys2Proof.Machine

@[simp] theorem setReg_pc (s : State) (r : Reg) (v : Word) : (s.setReg r v).pc = s.pc := rfl
@[simp] theorem setReg_vregs (s : State) (r : Reg) (v : Word) : (s.setReg r v).vregs = s.vregs := rfl
@[simp] theorem setReg_standby (s : State) (r : Reg) (v : Word) : (s.setReg r v).standby = s.standby := rfl
@[simp] theorem setReg_mem (s : State) (r : Reg) (v : Word) : (s.setReg r v).mem = s.mem := rfl
@[simp] theorem setReg_stages (s : State) (r : Reg) (v : Word) : (s.setReg r v).stages = s.stages := rfl
@[simp] theorem setReg_impl (s : State) (r : Reg) (v : Word) : (s.setReg r v).impl = s.impl := rfl
@[simp] theorem setReg_host (s : State) (r : Reg) (v : Word) : (s.setReg r v).host = s.host := rfl
@[simp] theorem setReg_elem (s : State) (r : Reg) (v : Word) (q : Reg) (j : Nat) : (s.setReg r v).elem q j = s.elem q j := rfl
@[simp] theorem setReg_byte (s : State) (r : Reg) (v : Word) (x : Word) : (s.setReg r v).byte x = s.byte x := rfl
@[simp] theorem setReg_stage (s : State) (r : Reg) (v : Word) (x : Word) : (s.setReg r v).stage x = s.stage x := rfl
@[simp] theorem setReg_isMapped (s : State) (r : Reg) (v : Word) (x : Word) (n : Nat) (k : AccessKind) : (s.setReg r v).isMapped x n k = s.isMapped x n k := rfl
@[simp] theorem setReg_bytesNat (s : State) (r : Reg) (v : Word) (x : Word) (n : Nat) : (s.setReg r v).bytesNat x n = s.bytesNat x n := by
  induction n generalizing x with
  | zero => rfl
  | succ n ih => simp [State.bytesNat, ih]
@[simp] theorem setReg_sysReg (s : State) (r : Reg) (v : Word) (n : Word) : (s.setReg r v).sysReg n = s.sysReg n := rfl

@[simp] theorem setElem_regs (s : State) (r : Reg) (i : Nat) (v : Word) : (s.setElem r i v).regs = s.regs := rfl
@[simp] theorem setElem_pc (s : State) (r : Reg) (i : Nat) (v : Word) : (s.setElem r i v).pc = s.pc := rfl
@[simp] theorem setElem_standby (s : State) (r : Reg) (i : Nat) (v : Word) : (s.setElem r i v).standby = s.standby := rfl
@[simp] theorem setElem_mem (s : State) (r : Reg) (i : Nat) (v : Word) : (s.setElem r i v).mem = s.mem := rfl
@[simp] theorem setElem_stages (s : State) (r : Reg) (i : Nat) (v : Word) : (s.setElem r i v).stages = s.stages := rfl
@[simp] theorem setElem_impl (s : State) (r : Reg) (i : Nat) (v : Word) : (s.setElem r i v).impl = s.impl := rfl
@[simp] theorem setElem_host (s : State) (r : Reg) (i : Nat) (v : Word) : (s.setElem r i v).host = s.host := rfl
@[simp] theorem setElem_reg (s : State) (r : Reg) (i : Nat) (v : Word) (q : Reg) : (s.setElem r i v).reg q = s.reg q := rfl
@[simp] theorem setElem_vl (s : State) (r : Reg) (i : Nat) (v : Word) : (s.setElem r i v).vl = s.vl := rfl
@[simp] theorem setElem_byte (s : State) (r : Reg) (i : Nat) (v : Word) (x : Word) : (s.setElem r i v).byte x = s.byte x := rfl
@[simp] theorem setElem_stage (s : State) (r : Reg) (i : Nat) (v : Word) (x : Word) : (s.setElem r i v).stage x = s.stage x := rfl
@[simp] theorem setElem_isMapped (s : State) (r : Reg) (i : Nat) (v : Word) (x : Word) (n : Nat) (k : AccessKind) : (s.setElem r i v).isMapped x n k = s.isMapped x n k := rfl
@[simp] theorem setElem_bytesNat (s : State) (r : Reg) (i : Nat) (v : Word) (x : Word) (n : Nat) : (s.setElem r i v).bytesNat x n = s.bytesNat x n := by
  induction n generalizing x with
  | zero => rfl
  | succ n ih => simp [State.bytesNat, ih]
@[simp] theorem setElem_sysReg (s : State) (r : Reg) (i : Nat) (v : Word) (n : Word) : (s.setElem r i v).sysReg n = s.sysReg n := rfl

@[simp] theorem advance_regs (s : State) : (s.advance).regs = s.regs := rfl
@[simp] theorem advance_pc (s : State) : (s.advance).pc = s.pc + 4#32 := rfl
@[simp] theorem advance_vregs (s : State) : (s.advance).vregs = s.vregs := rfl
@[simp] theorem advance_standby (s : State) : (s.advance).standby = s.standby := rfl
@[simp] theorem advance_mem (s : State) : (s.advance).mem = s.mem := rfl
@[simp] theorem advance_stages (s : State) : (s.advance).stages = s.stages := rfl
@[simp] theorem advance_impl (s : State) : (s.advance).impl = s.impl := rfl
@[simp] theorem advance_host (s : State) : (s.advance).host = s.host := rfl
@[simp] theorem advance_reg (s : State) (q : Reg) : (s.advance).reg q = s.reg q := rfl
@[simp] theorem advance_elem (s : State) (q : Reg) (j : Nat) : (s.advance).elem q j = s.elem q j := rfl
@[simp] theorem advance_vl (s : State) : (s.advance).vl = s.vl := rfl
@[simp] theorem advance_byte (s : State) (x : Word) : (s.advance).byte x = s.byte x := rfl
@[simp] theorem advance_stage (s : State) (x : Word) : (s.advance).stage x = s.stage x := rfl
@[simp] theorem advance_isMapped (s : State) (x : Word) (n : Nat) (k : AccessKind) : (s.advance).isMapped x n k = s.isMapped x n k := rfl
@[simp] theorem advance_bytesNat (s : State) (x : Word) (n : Nat) : (s.advance).bytesNat x n = s.bytesNat x n := by
  induction n generalizing x with
  | zero => rfl
  | succ n ih => simp [State.bytesNat, ih]
@[simp] theorem advance_sysReg (s : State) (n : Word) : (s.advance).sysReg n = s.sysReg n := rfl

@[simp] theorem jump_regs (s : State) (t : Word) : (s.jump t).regs = s.regs := rfl
@[simp] theorem jump_pc (s : State) (t : Word) : (s.jump t).pc = t := rfl
@[simp] theorem jump_vregs (s : State) (t : Word) : (s.jump t).vregs = s.vregs := rfl
@[simp] theorem jump_standby (s : State) (t : Word) : (s.jump t).standby = s.standby := rfl
@[simp] theorem jump_mem (s : State) (t : Word) : (s.jump t).mem = s.mem := rfl
@[simp] theorem jump_stages (s : State) (t : Word) : (s.jump t).stages = s.stages := rfl
@[simp] theorem jump_impl (s : State) (t : Word) : (s.jump t).impl = s.impl := rfl
@[simp] theorem jump_host (s : State) (t : Word) : (s.jump t).host = s.host := rfl
@[simp] theorem jump_reg (s : State) (t : Word) (q : Reg) : (s.jump t).reg q = s.reg q := rfl
@[simp] theorem jump_elem (s : State) (t : Word) (q : Reg) (j : Nat) : (s.jump t).elem q j = s.elem q j := rfl
@[simp] theorem jump_vl (s : State) (t : Word) : (s.jump t).vl = s.vl := rfl
@[simp] theorem jump_byte (s : State) (t : Word) (x : Word) : (s.jump t).byte x = s.byte x := rfl
@[simp] theorem jump_stage (s : State) (t : Word) (x : Word) : (s.jump t).stage x = s.stage x := rfl
@[simp] theorem jump_isMapped (s : State) (t : Word) (x : Word) (n : Nat) (k : AccessKind) : (s.jump t).isMapped x n k = s.isMapped x n k := rfl
@[simp] theorem jump_bytesNat (s : State) (t : Word) (x : Word) (n : Nat) : (s.jump t).bytesNat x n = s.bytesNat x n := by
  induction n generalizing x with
  | zero => rfl
  | succ n ih => simp [State.bytesNat, ih]
@[simp] theorem jump_sysReg (s : State) (t : Word) (n : Word) : (s.jump t).sysReg n = s.sysReg n := rfl

@[simp] theorem storeByte_regs (s : State) (a : Word) (v : Byte) : (s.storeByte a v).regs = s.regs := rfl
@[simp] theorem storeByte_pc (s : State) (a : Word) (v : Byte) : (s.storeByte a v).pc = s.pc := rfl
@[simp] theorem storeByte_vregs (s : State) (a : Word) (v : Byte) : (s.storeByte a v).vregs = s.vregs := rfl
@[simp] theorem storeByte_standby (s : State) (a : Word) (v : Byte) : (s.storeByte a v).standby = s.standby := rfl
@[simp] theorem storeByte_mem (s : State) (a : Word) (v : Byte) : (s.storeByte a v).mem = sparseSet unlistedByte s.mem a.toNat v := rfl
@[simp] theorem storeByte_stages (s : State) (a : Word) (v : Byte) : (s.storeByte a v).stages = sparseSet Stage.clean s.stages a.toNat .stored := rfl
@[simp] theorem storeByte_impl (s : State) (a : Word) (v : Byte) : (s.storeByte a v).impl = s.impl := rfl
@[simp] theorem storeByte_host (s : State) (a : Word) (v : Byte) : (s.storeByte a v).host = s.host := rfl
@[simp] theorem storeByte_reg (s : State) (a : Word) (v : Byte) (q : Reg) : (s.storeByte a v).reg q = s.reg q := rfl
@[simp] theorem storeByte_elem (s : State) (a : Word) (v : Byte) (q : Reg) (j : Nat) : (s.storeByte a v).elem q j = s.elem q j := rfl
@[simp] theorem storeByte_vl (s : State) (a : Word) (v : Byte) : (s.storeByte a v).vl = s.vl := rfl
@[simp] theorem storeByte_isMapped (s : State) (a : Word) (v : Byte) (x : Word) (n : Nat) (k : AccessKind) : (s.storeByte a v).isMapped x n k = s.isMapped x n k := rfl
@[simp] theorem storeByte_sysReg (s : State) (a : Word) (v : Byte) (n : Word) : (s.storeByte a v).sysReg n = s.sysReg n := rfl

@[simp] theorem placeByte_regs (s : State) (a : Word) (v : Byte) : (s.placeByte a v).regs = s.regs := rfl
@[simp] theorem placeByte_pc (s : State) (a : Word) (v : Byte) : (s.placeByte a v).pc = s.pc := rfl
@[simp] theorem placeByte_vregs (s : State) (a : Word) (v : Byte) : (s.placeByte a v).vregs = s.vregs := rfl
@[simp] theorem placeByte_standby (s : State) (a : Word) (v : Byte) : (s.placeByte a v).standby = s.standby := rfl
@[simp] theorem placeByte_mem (s : State) (a : Word) (v : Byte) : (s.placeByte a v).mem = sparseSet unlistedByte s.mem a.toNat v := rfl
@[simp] theorem placeByte_stages (s : State) (a : Word) (v : Byte) : (s.placeByte a v).stages = sparseSet Stage.clean s.stages a.toNat .clean := rfl
@[simp] theorem placeByte_impl (s : State) (a : Word) (v : Byte) : (s.placeByte a v).impl = s.impl := rfl
@[simp] theorem placeByte_host (s : State) (a : Word) (v : Byte) : (s.placeByte a v).host = s.host := rfl
@[simp] theorem placeByte_reg (s : State) (a : Word) (v : Byte) (q : Reg) : (s.placeByte a v).reg q = s.reg q := rfl
@[simp] theorem placeByte_elem (s : State) (a : Word) (v : Byte) (q : Reg) (j : Nat) : (s.placeByte a v).elem q j = s.elem q j := rfl
@[simp] theorem placeByte_vl (s : State) (a : Word) (v : Byte) : (s.placeByte a v).vl = s.vl := rfl
@[simp] theorem placeByte_isMapped (s : State) (a : Word) (v : Byte) (x : Word) (n : Nat) (k : AccessKind) : (s.placeByte a v).isMapped x n k = s.isMapped x n k := rfl
@[simp] theorem placeByte_sysReg (s : State) (a : Word) (v : Byte) (n : Word) : (s.placeByte a v).sysReg n = s.sysReg n := rfl

@[simp] theorem moveStage_regs (s : State) (r : CacheRange) (f t : Stage) : (s.moveStage r f t).regs = s.regs := rfl
@[simp] theorem moveStage_pc (s : State) (r : CacheRange) (f t : Stage) : (s.moveStage r f t).pc = s.pc := rfl
@[simp] theorem moveStage_vregs (s : State) (r : CacheRange) (f t : Stage) : (s.moveStage r f t).vregs = s.vregs := rfl
@[simp] theorem moveStage_standby (s : State) (r : CacheRange) (f t : Stage) : (s.moveStage r f t).standby = s.standby := rfl
@[simp] theorem moveStage_mem (s : State) (r : CacheRange) (f t : Stage) : (s.moveStage r f t).mem = s.mem := rfl
@[simp] theorem moveStage_impl (s : State) (r : CacheRange) (f t : Stage) : (s.moveStage r f t).impl = s.impl := rfl
@[simp] theorem moveStage_host (s : State) (r : CacheRange) (f t : Stage) : (s.moveStage r f t).host = s.host := rfl
@[simp] theorem moveStage_reg (s : State) (r : CacheRange) (f t : Stage) (q : Reg) : (s.moveStage r f t).reg q = s.reg q := rfl
@[simp] theorem moveStage_elem (s : State) (r : CacheRange) (f t : Stage) (q : Reg) (j : Nat) : (s.moveStage r f t).elem q j = s.elem q j := rfl
@[simp] theorem moveStage_vl (s : State) (r : CacheRange) (f t : Stage) : (s.moveStage r f t).vl = s.vl := rfl
@[simp] theorem moveStage_byte (s : State) (r : CacheRange) (f t : Stage) (x : Word) : (s.moveStage r f t).byte x = s.byte x := rfl
@[simp] theorem moveStage_isMapped (s : State) (r : CacheRange) (f t : Stage) (x : Word) (n : Nat) (k : AccessKind) : (s.moveStage r f t).isMapped x n k = s.isMapped x n k := rfl
@[simp] theorem moveStage_bytesNat (s : State) (r : CacheRange) (f t : Stage) (x : Word) (n : Nat) : (s.moveStage r f t).bytesNat x n = s.bytesNat x n := by
  induction n generalizing x with
  | zero => rfl
  | succ n ih => simp [State.bytesNat, ih]
@[simp] theorem moveStage_sysReg (s : State) (r : CacheRange) (f t : Stage) (n : Word) : (s.moveStage r f t).sysReg n = s.sysReg n := rfl

@[simp] theorem syncStages_regs (s : State) : (s.syncStages).regs = s.regs := rfl
@[simp] theorem syncStages_pc (s : State) : (s.syncStages).pc = s.pc := rfl
@[simp] theorem syncStages_vregs (s : State) : (s.syncStages).vregs = s.vregs := rfl
@[simp] theorem syncStages_standby (s : State) : (s.syncStages).standby = s.standby := rfl
@[simp] theorem syncStages_mem (s : State) : (s.syncStages).mem = s.mem := rfl
@[simp] theorem syncStages_stages (s : State) : (s.syncStages).stages = s.stages.filter fun c => c.2 ≠ .invalidated := rfl
@[simp] theorem syncStages_impl (s : State) : (s.syncStages).impl = s.impl := rfl
@[simp] theorem syncStages_host (s : State) : (s.syncStages).host = s.host := rfl
@[simp] theorem syncStages_reg (s : State) (q : Reg) : (s.syncStages).reg q = s.reg q := rfl
@[simp] theorem syncStages_elem (s : State) (q : Reg) (j : Nat) : (s.syncStages).elem q j = s.elem q j := rfl
@[simp] theorem syncStages_vl (s : State) : (s.syncStages).vl = s.vl := rfl
@[simp] theorem syncStages_byte (s : State) (x : Word) : (s.syncStages).byte x = s.byte x := rfl
@[simp] theorem syncStages_isMapped (s : State) (x : Word) (n : Nat) (k : AccessKind) : (s.syncStages).isMapped x n k = s.isMapped x n k := rfl
@[simp] theorem syncStages_bytesNat (s : State) (x : Word) (n : Nat) : (s.syncStages).bytesNat x n = s.bytesNat x n := by
  induction n generalizing x with
  | zero => rfl
  | succ n ih => simp [State.bytesNat, ih]
@[simp] theorem syncStages_sysReg (s : State) (n : Word) : (s.syncStages).sysReg n = s.sysReg n := rfl

end Sys2Proof.Machine
end

