-- ==== Sys2Proof/Laws/Memory.lean ====
section
/-! SUPPORT. The laws of sparse maps, memory and stages: read after write, other addresses unchanged, the canonical
form kept by every operation. -/

namespace Sys2Proof.Machine

variable {α : Type} [DecidableEq α] {d : α}

/-! ### Sparse maps -/

theorem sparseWfFrom_cons {lo k : Nat} {v : α} {l : List (Nat × α)} :
    sparseWfFrom d lo ((k, v) :: l) = true ↔
      lo ≤ k ∧ k < addressSpace ∧ v ≠ d ∧ sparseWfFrom d (k + 1) l = true := by
  simp [sparseWfFrom, and_assoc]

theorem sparseWfFrom_mono {lo lo' : Nat} {l : List (Nat × α)} (h : sparseWfFrom d lo l = true) (hl : lo' ≤ lo) :
    sparseWfFrom d lo' l = true := by
  cases l with
  | nil => rfl
  | cons c l =>
    obtain ⟨k, v⟩ := c
    rw [sparseWfFrom_cons] at h ⊢
    exact ⟨hl.trans h.1, h.2⟩

/-- Below the first listed address everything is unlisted. -/
theorem sparseGet_below {lo : Nat} {l : List (Nat × α)} (h : sparseWfFrom d lo l = true) {a : Nat} (ha : a < lo) :
    sparseGet d l a = d := by
  induction l generalizing lo with
  | nil => rfl
  | cons c l ih =>
    obtain ⟨k, v⟩ := c
    rw [sparseWfFrom_cons] at h
    rw [sparseGet, if_neg (by omega)]
    exact ih h.2.2.2 (by omega)

/-- Reading after one write: the value at the address written, the old value everywhere else. -/
theorem sparseGet_sparseSet {lo : Nat} {l : List (Nat × α)} (h : sparseWfFrom d lo l = true) (a b : Nat) (v : α) :
    sparseGet d (sparseSet d l a v) b = if b = a then v else sparseGet d l b := by
  induction l generalizing lo with
  | nil => by_cases hv : v = d <;> simp [sparseSet, sparseGet, hv, eq_comm]
  | cons c l ih =>
    obtain ⟨k, w⟩ := c
    rw [sparseWfFrom_cons] at h
    have hbelow := fun x (hx : x < k + 1) => sparseGet_below h.2.2.2 hx
    have hk := fun x (hx : x < k) => sparseGet_below (sparseWfFrom_cons.2 ⟨le_refl k, h.2⟩) hx
    by_cases hb : b = a
    · subst hb
      by_cases h1 : b < k
      · by_cases hv : v = d <;> simp [sparseSet, h1, hv, hk b h1, sparseGet]
      · by_cases h2 : b = k
        · subst h2
          by_cases hv : v = d <;> simp [sparseSet, hv, hbelow b (Nat.lt_succ_self b), sparseGet]
        · simp [sparseSet, h1, h2, sparseGet, Ne.symm h2, ih h.2.2.2]
    · have hb' := Ne.symm hb
      by_cases h1 : a < k
      · by_cases hv : v = d <;> simp [sparseSet, h1, hv, hb, hb', sparseGet]
      · by_cases h2 : a = k
        · subst h2
          by_cases hv : v = d <;> simp [sparseSet, hv, hb, hb', sparseGet]
        · simp [sparseSet, h1, h2, sparseGet, ih h.2.2.2, hb]

/-- A write keeps the canonical form. -/
theorem sparseWfFrom_sparseSet {lo : Nat} {l : List (Nat × α)} (h : sparseWfFrom d lo l = true) {a : Nat} (v : α)
    (hlo : lo ≤ a) (ha : a < addressSpace) : sparseWfFrom d lo (sparseSet d l a v) = true := by
  induction l generalizing lo with
  | nil => by_cases hv : v = d <;> simp [sparseSet, sparseWfFrom, hv, hlo, ha]
  | cons c l ih =>
    obtain ⟨k, w⟩ := c
    rw [sparseWfFrom_cons] at h
    unfold sparseSet
    split_ifs with h1 h2 h3 h4
    · exact sparseWfFrom_cons.2 h
    · exact sparseWfFrom_cons.2 ⟨hlo, ha, h2, sparseWfFrom_cons.2 ⟨h1, h.2⟩⟩
    · exact sparseWfFrom_mono h.2.2.2 (by omega)
    · subst h3
      exact sparseWfFrom_cons.2 ⟨hlo, ha, h4, h.2.2.2⟩
    · exact sparseWfFrom_cons.2 ⟨h.1, h.2.1, h.2.2.1, ih h.2.2.2 (by omega)⟩

/-- A canonical map listing only values other than d is determined by what it reads as. -/
theorem sparse_ext {lo lo' : Nat} {l m : List (Nat × α)} (hl : sparseWfFrom d lo l = true)
    (hm : sparseWfFrom d lo' m = true) (h : ∀ a, sparseGet d l a = sparseGet d m a) : l = m := by
  induction l generalizing lo lo' m with
  | nil =>
    cases m with
    | nil => rfl
    | cons c m =>
      obtain ⟨k, v⟩ := c
      rw [sparseWfFrom_cons] at hm
      exact absurd (by simpa [sparseGet] using (h k).symm) hm.2.2.1
  | cons c l ih =>
    obtain ⟨k, v⟩ := c
    rw [sparseWfFrom_cons] at hl
    cases m with
    | nil => exact absurd (by simpa [sparseGet] using h k) hl.2.2.1
    | cons c m =>
      obtain ⟨j, w⟩ := c
      rw [sparseWfFrom_cons] at hm
      have hkj : k = j := by
        rcases Nat.lt_trichotomy k j with hlt | heq | hgt
        · have := h k
          rw [sparseGet_below (lo := j) (sparseWfFrom_cons.2 ⟨le_refl _, hm.2⟩) hlt] at this
          exact absurd (by simpa [sparseGet] using this) hl.2.2.1
        · exact heq
        · have := (h j).symm
          rw [sparseGet_below (lo := k) (sparseWfFrom_cons.2 ⟨le_refl _, hl.2⟩) hgt] at this
          exact absurd (by simpa [sparseGet] using this) hm.2.2.1
      subst hkj
      have hvw : v = w := by simpa [sparseGet] using h k
      subst hvw
      rw [ih hl.2.2.2 hm.2.2.2]
      intro a
      by_cases ha : a = k
      · subst ha
        rw [sparseGet_below hl.2.2.2 (by omega), sparseGet_below hm.2.2.2 (by omega)]
      · simpa [sparseGet, Ne.symm ha] using h a

/-! ### Memory and stages -/

theorem toNat_lt_addressSpace (a : Word) : a.toNat < addressSpace := a.isLt

theorem wf_set_byte {m : Memory} (h : Memory.wf m = true) (a : Word) (v : Byte) :
    Memory.wf (sparseSet unlistedByte m a.toNat v) = true :=
  sparseWfFrom_sparseSet h v (Nat.zero_le _) (toNat_lt_addressSpace a)

theorem wf_set_stage {m : Stages} (h : Stages.wf m = true) (a : Word) (v : Stage) :
    Stages.wf (sparseSet Stage.clean m a.toNat v) = true :=
  sparseWfFrom_sparseSet h v (Nat.zero_le _) (toNat_lt_addressSpace a)

/-- What one stored byte changes in memory (R42). -/
theorem storeByte_byte {s : State} (h : Memory.wf s.mem = true) (a x : Word) (v : Byte) :
    (s.storeByte a v).byte x = if x = a then v else s.byte x := by
  simp only [State.byte, storeByte_mem, sparseGet_sparseSet h, ← BitVec.toNat_inj]

/-- What one stored byte changes in the stages (R56). -/
theorem storeByte_stage {s : State} (h : Stages.wf s.stages = true) (a x : Word) (v : Byte) :
    (s.storeByte a v).stage x = if x = a then .stored else s.stage x := by
  simp only [State.stage, storeByte_stages, sparseGet_sparseSet h, ← BitVec.toNat_inj]

/-- What one placed byte changes in memory. -/
theorem placeByte_byte {s : State} (h : Memory.wf s.mem = true) (a x : Word) (v : Byte) :
    (s.placeByte a v).byte x = if x = a then v else s.byte x := by
  simp only [State.byte, placeByte_mem, sparseGet_sparseSet h, ← BitVec.toNat_inj]

/-- What one placed byte changes in the stages. -/
theorem placeByte_stage {s : State} (h : Stages.wf s.stages = true) (a x : Word) (v : Byte) :
    (s.placeByte a v).stage x = if x = a then .clean else s.stage x := by
  simp only [State.stage, placeByte_stages, sparseGet_sparseSet h, ← BitVec.toNat_inj]

/-! ### Stores of several bytes -/

section MemWrite

variable (s : State) (a : Word) (n : Nat) (v : Word)

@[simp] theorem memWrite_regs : (s.memWrite a n v).regs = s.regs := by
  induction n generalizing s a v with
  | zero => rfl
  | succ n ih => simp [State.memWrite, ih]

@[simp] theorem memWrite_pc : (s.memWrite a n v).pc = s.pc := by
  induction n generalizing s a v with
  | zero => rfl
  | succ n ih => simp [State.memWrite, ih]

@[simp] theorem memWrite_vregs : (s.memWrite a n v).vregs = s.vregs := by
  induction n generalizing s a v with
  | zero => rfl
  | succ n ih => simp [State.memWrite, ih]

@[simp] theorem memWrite_standby : (s.memWrite a n v).standby = s.standby := by
  induction n generalizing s a v with
  | zero => rfl
  | succ n ih => simp [State.memWrite, ih]

@[simp] theorem memWrite_impl : (s.memWrite a n v).impl = s.impl := by
  induction n generalizing s a v with
  | zero => rfl
  | succ n ih => simp [State.memWrite, ih]

@[simp] theorem memWrite_host : (s.memWrite a n v).host = s.host := by
  induction n generalizing s a v with
  | zero => rfl
  | succ n ih => simp [State.memWrite, ih]

@[simp] theorem memWrite_reg (r : Reg) : (s.memWrite a n v).reg r = s.reg r := by simp [State.reg]

@[simp] theorem memWrite_elem (r : Reg) (i : Nat) : (s.memWrite a n v).elem r i = s.elem r i := by simp [State.elem]

@[simp] theorem memWrite_vl : (s.memWrite a n v).vl = s.vl := by simp [State.vl]

theorem memWrite_mem_wf (h : Memory.wf s.mem = true) : Memory.wf (s.memWrite a n v).mem = true := by
  induction n generalizing s a v with
  | zero => exact h
  | succ n ih => exact ih _ _ _ (wf_set_byte h _ _)

theorem memWrite_stages_wf (h : Stages.wf s.stages = true) : Stages.wf (s.memWrite a n v).stages = true := by
  induction n generalizing s a v with
  | zero => exact h
  | succ n ih => exact ih _ _ _ (wf_set_stage h _ _)

/-- The byte at x after a store of n bytes (R42): byte k of the value at address `a + k`, k < n; every other address
keeps its byte. -/
theorem memWrite_byte (h : Memory.wf s.mem = true) (hn : n ≤ 4) (x : Word) :
    (s.memWrite a n v).byte x =
      if (x - a).toNat < n then v.extractLsb' (8 * (x - a).toNat) 8 else s.byte x := by
  induction n generalizing s a v with
  | zero => simp [State.memWrite]
  | succ n ih =>
    rw [State.memWrite, ih _ _ _ (wf_set_byte h _ _) (by omega), storeByte_byte h]
    by_cases hx : x = a
    · subst hx
      have h1 : (x - (x + 1#32)).toNat = 4294967295 := by bv_omega
      simp only [h1, BitVec.sub_self, BitVec.toNat_zero, Nat.zero_lt_succ, ite_true]
      rw [if_neg (by omega), Nat.mul_zero, ← BitVec.setWidth_eq_extractLsb' (by decide)]
    · have h2 : (x - a).toNat ≠ 0 := by bv_omega
      have h1 : (x - (a + 1#32)).toNat = (x - a).toNat - 1 := by bv_omega
      rw [h1, if_neg hx]
      by_cases h3 : (x - a).toNat < n + 1
      · rw [if_pos (by omega), if_pos h3]
        apply BitVec.eq_of_getLsbD_eq
        intro j hj
        simp only [BitVec.getLsbD_extractLsb', BitVec.getLsbD_ushiftRight, hj, decide_true, Bool.true_and]
        congr 1
        omega
      · rw [if_neg (by omega), if_neg h3]

/-- The stages after a store of n bytes (R56). -/
theorem memWrite_stage (h : Stages.wf s.stages = true) (hn : n ≤ 4) (x : Word) :
    (s.memWrite a n v).stage x = if (x - a).toNat < n then .stored else s.stage x := by
  induction n generalizing s a v with
  | zero => simp [State.memWrite]
  | succ n ih =>
    rw [State.memWrite, ih _ _ _ (wf_set_stage h _ _) (by omega), storeByte_stage h]
    by_cases hx : x = a
    · subst hx
      have h1 : (x - (x + 1#32)).toNat = 4294967295 := by bv_omega
      simp only [h1, BitVec.sub_self, BitVec.toNat_zero, Nat.zero_lt_succ, ite_true]
      rw [if_neg (by omega)]
    · have h2 : (x - a).toNat ≠ 0 := by bv_omega
      have h1 : (x - (a + 1#32)).toNat = (x - a).toNat - 1 := by bv_omega
      rw [h1, if_neg hx]
      by_cases h3 : (x - a).toNat < n + 1
      · rw [if_pos (by omega), if_pos h3]
      · rw [if_neg (by omega), if_neg h3]

end MemWrite

/-! ### Cache stages -/

theorem sparseWfFrom_map_stage {lo : Nat} {l : Stages} (f : Nat × Stage → Nat × Stage) (hk : ∀ c, (f c).1 = c.1)
    (hc : ∀ c, c.2 ≠ .clean → (f c).2 ≠ .clean) (h : sparseWfFrom Stage.clean lo l = true) :
    sparseWfFrom Stage.clean lo (l.map f) = true := by
  induction l generalizing lo with
  | nil => rfl
  | cons c l ih =>
    rw [sparseWfFrom_cons] at h
    rw [List.map_cons]
    exact sparseWfFrom_cons.2 ⟨(hk c).symm ▸ h.1, (hk c).symm ▸ h.2.1, hc c h.2.2.1, (hk c).symm ▸ ih h.2.2.2⟩

theorem sparseWfFrom_filter {lo : Nat} {l : List (Nat × α)} (p : Nat × α → Bool)
    (h : sparseWfFrom d lo l = true) : sparseWfFrom d lo (l.filter p) = true := by
  induction l generalizing lo with
  | nil => rfl
  | cons c l ih =>
    obtain ⟨k, v⟩ := c
    rw [sparseWfFrom_cons] at h
    rw [List.filter_cons]
    split
    · exact sparseWfFrom_cons.2 ⟨h.1, h.2.1, h.2.2.1, ih h.2.2.2⟩
    · exact sparseWfFrom_mono (ih h.2.2.2) (by omega)

theorem moveStage_wf {s : State} (h : Stages.wf s.stages = true) (r : CacheRange) (f t : Stage) (ht : t ≠ .clean) :
    Stages.wf (s.moveStage r f t).stages = true := by
  refine sparseWfFrom_map_stage _ ?_ ?_ h
  · intro c
    split <;> rfl
  · intro c hc
    split
    · exact ht
    · exact hc

theorem syncStages_wf {s : State} (h : Stages.wf s.stages = true) : Stages.wf s.syncStages.stages = true :=
  sparseWfFrom_filter _ h

/-- The stage of one byte after a cache operation (R329). -/
theorem moveStage_stage (s : State) (r : CacheRange) (f t : Stage) (hf : f ≠ .clean) (x : Word) :
    (s.moveStage r f t).stage x =
      if s.stage x = f ∧ CacheRange.holds s.impl r x.toNat = true then t else s.stage x := by
  unfold State.stage State.moveStage
  generalize s.stages = l
  induction l with
  | nil => simp [sparseGet, Ne.symm hf]
  | cons c l ih =>
    obtain ⟨k, v⟩ := c
    simp only [List.map_cons]
    by_cases hk : k = x.toNat
    · subst hk
      by_cases hv : v = f <;> by_cases hr : CacheRange.holds s.impl r x.toNat = true <;> simp [sparseGet, hv, hr]
    · rw [show sparseGet Stage.clean ((k, v) :: l) x.toNat = sparseGet Stage.clean l x.toNat by simp [sparseGet, hk],
        ← ih]
      split <;> simp [sparseGet, hk]

/-- The stage of one byte after SYNC (R328, R329). -/
theorem syncStages_stage {s : State} (h : Stages.wf s.stages = true) (x : Word) :
    s.syncStages.stage x = if s.stage x = .invalidated then .clean else s.stage x := by
  unfold State.stage
  rw [syncStages_stages]
  have : ∀ (l : Stages) (lo : Nat), sparseWfFrom Stage.clean lo l = true →
      sparseGet Stage.clean (l.filter fun c => c.2 ≠ .invalidated) x.toNat =
        if sparseGet Stage.clean l x.toNat = .invalidated then .clean else sparseGet Stage.clean l x.toNat := by
    intro l
    induction l with
    | nil => intro lo _; rfl
    | cons c l ih =>
      intro lo hl
      obtain ⟨k, v⟩ := c
      rw [sparseWfFrom_cons] at hl
      have ih' := ih _ hl.2.2.2
      simp only [ne_eq, decide_not] at ih'
      by_cases hk : k = x.toNat
      · subst hk
        have hb := sparseGet_below hl.2.2.2 (Nat.lt_succ_self _)
        by_cases hv : v = .invalidated
        · simp [hv, sparseGet, ih', hb]
        · simp [hv, sparseGet]
      · by_cases hv : v = .invalidated
        · simp [hv, sparseGet, hk, ih']
        · simp [hv, sparseGet, hk, ih']
  exact this _ _ h

/-- Whether a range holds a dirty byte, said of addresses (R329). -/
theorem holdsDirty_iff {s : State} (h : Stages.wf s.stages = true) (r : CacheRange) :
    s.holdsDirty r = true ↔ ∃ x : Word, s.stage x = .stored ∧ CacheRange.holds s.impl r x.toNat = true := by
  unfold State.holdsDirty State.stage
  have : ∀ (l : Stages) (lo : Nat), sparseWfFrom Stage.clean lo l = true →
      ((l.any fun c => c.2 = .stored && CacheRange.holds s.impl r c.1) = true ↔
        ∃ x : Word, sparseGet Stage.clean l x.toNat = .stored ∧ CacheRange.holds s.impl r x.toNat = true) := by
    intro l
    induction l with
    | nil => intro lo _; simp [sparseGet]
    | cons c l ih =>
      intro lo hl
      obtain ⟨k, v⟩ := c
      rw [sparseWfFrom_cons] at hl
      have hb := fun a (ha : a < k + 1) => sparseGet_below hl.2.2.2 ha
      rw [List.any_cons, Bool.or_eq_true, ih _ hl.2.2.2]
      constructor
      · rintro (h1 | ⟨x, hx, hr⟩)
        · have hkx : (BitVec.ofNat 32 k).toNat = k := by
            have := hl.2.1
            rw [BitVec.toNat_ofNat]
            exact Nat.mod_eq_of_lt this
          refine ⟨BitVec.ofNat 32 k, ?_⟩
          simpa [hkx, sparseGet] using h1
        · refine ⟨x, ?_, hr⟩
          have : k ≠ x.toNat := by
            rintro rfl
            rw [hb _ (Nat.lt_succ_self _)] at hx
            exact absurd hx (by decide)
          simpa [sparseGet, this] using hx
      · rintro ⟨x, hx, hr⟩
        by_cases hk : k = x.toNat
        · left
          simp only [sparseGet, hk, ite_true] at hx
          simp [hx, hk, hr]
        · right
          exact ⟨x, by simpa [sparseGet, hk] using hx, hr⟩
  exact this _ _ h

end Sys2Proof.Machine
end

