-- ==== Sys2Proof/Laws/Ops.lean ====
section
/-! SUPPORT. What each shared operation can do, said once: register reads after writes, the checks, the sequencing of
results, and the invariant of Safety kept by every state update. -/

namespace Sys2Proof.Machine

/-! ### Registers -/

@[simp] theorem reg_z (s : State) : s.reg Reg.z = 0#32 := by simp [State.reg]

@[simp] theorem elem_z (s : State) (i : Nat) : s.elem Reg.z i = 0#32 := by simp [State.elem]

/-- Reading a scalar register after writing one (R10, R11). -/
theorem reg_setReg (s : State) (r q : Reg) (v : Word) :
    (s.setReg r v).reg q = if q = r ∧ r ≠ Reg.z then v else s.reg q := by
  unfold State.reg State.setReg
  by_cases hq : q = Reg.z
  · subst hq
    simp [eq_comm]
  · by_cases hr : r = Reg.z
    · simp [hr]
    · by_cases hqr : q = r
      · subst hqr
        simp [hq]
      · have : r.toNat ≠ q.toNat := fun h => hqr (BitVec.eq_of_toNat_eq h.symm)
        simp [hq, hr, hqr, Vector.getElem_set, this]

/-- Writing an element changes no length. -/
theorem setElem_length (s : State) (r : Reg) (i : Nat) (v : Word) (k : Fin 32) :
    ((s.setElem r i v).vregs[k]).length = (s.vregs[k]).length := by
  unfold State.setElem
  by_cases hr : r = Reg.z
  · simp [hr]
  · simp only [hr, ite_false, Fin.getElem_fin, Vector.getElem_set]
    split
    · next h => simp only [List.length_set, h]
    · rfl

/-- Reading an element after writing one within the register's length (R20, R21). -/
theorem elem_setElem (s : State) (r q : Reg) (i j : Nat) (v : Word) (hi : i < (s.vregs[r.toFin]).length) :
    (s.setElem r i v).elem q j = if q = r ∧ r ≠ Reg.z ∧ j = i then v else s.elem q j := by
  have hi' : i < (s.vregs[r.toNat]'r.isLt).length := hi
  unfold State.elem State.setElem
  by_cases hq : q = Reg.z
  · subst hq
    by_cases h : Reg.z = r
    · simp [← h]
    · simp [h]
  · by_cases hr : r = Reg.z
    · simp [hr]
    · by_cases hqr : q = r
      · subst hqr
        by_cases hj : j = i
        · subst hj
          simp [hq, hi', List.getD]
        · have := Ne.symm hj
          simp [hq, hj, List.getD, List.getElem?_set, this]
      · have : r.toNat ≠ q.toNat := fun h => hqr (BitVec.eq_of_toNat_eq h.symm)
        simp [hq, hr, hqr, Vector.getElem_set, this]

/-! ### Results -/

@[simp] theorem andThen_next (s : State) (k : State → Result) : andThen (.next s) k = k s := rfl

@[simp] theorem andThen_fault (f : Fault) (k : State → Result) : andThen (.fault f) k = .fault f := rfl

@[simp] theorem andThen_refused (e : Refusal) (k : State → Result) : andThen (.refused e) k = .refused e := rfl

/-- A sequence gives a next state when both parts do. -/
theorem andThen_eq_next {r : Result} {k : State → Result} {t : State} :
    andThen r k = .next t ↔ ∃ s, r = .next s ∧ k s = .next t := by
  cases r <;> simp

/-- A sequence faults in one of its parts. -/
theorem andThen_eq_fault {r : Result} {k : State → Result} {f : Fault} :
    andThen r k = .fault f ↔ r = .fault f ∨ ∃ s, r = .next s ∧ k s = .fault f := by
  cases r <;> simp

/-- What the availability check can do (R97, R133). -/
theorem gated_eq_next {i : Instr} {s t : State} {k : Result} :
    gated i s k = .next t ↔ i.wellFormed = true ∧ i.available s.impl = true ∧ k = .next t := by
  unfold gated
  split
  · next h => simp only [Bool.and_eq_true] at h; simp [h]
  · next h => simp only [Bool.and_eq_true, not_and] at h; simp only [reduceCtorEq, false_iff]; tauto

theorem gated_pass {i : Instr} {s : State} (k : Result) (hw : i.wellFormed = true)
    (ha : i.available s.impl = true) : gated i s k = k := by simp [gated, hw, ha]

/-- What the vector length check can do (R22, R128). -/
theorem vlChecked_eq_next {v : VMode} {s t : State} {k : Result} :
    vlChecked v s k = .next t ↔ vlWithin v s = true ∧ k = .next t := by
  unfold vlChecked
  split
  · next h => simp [h]
  · next h => simp [h]

theorem vlChecked_pass {v : VMode} {s : State} (k : Result) (h : vlWithin v s = true) : vlChecked v s k = k := by
  simp [vlChecked, h]

/-- The vector length a mode allows, said of numbers. -/
theorem vlWithin_iff {v : VMode} {s : State} :
    vlWithin v s = true ↔
      (v = .vecScalar ∨ v = .vecVec → s.vl ≤ s.impl.elements) ∧ (v = .fold → 2 * s.vl ≤ s.impl.elements) := by
  cases v <;> simp [vlWithin]

/-- What the checks of a data access can do (R45, R47). -/
theorem checkAccess_eq_next {s t : State} {a : Word} {n : Nat} {kind : AccessKind} {k : Result} :
    checkAccess s a n kind k = .next t ↔ a.toNat % n = 0 ∧ s.isMapped a n kind = true ∧ k = .next t := by
  unfold checkAccess
  split
  · next h => simp [h]
  · next h =>
    split
    · next h' => simp [not_not.1 h, h']
    · next h' => simp [h']

theorem checkAccess_pass {s : State} {a : Word} {n : Nat} {kind : AccessKind} (k : Result)
    (hn : a.toNat % n = 0) (hm : s.isMapped a n kind = true) : checkAccess s a n kind k = k := by
  simp [checkAccess, hn, hm]

/-! ### The invariant -/

theorem inv_of_same {s t : State} (h : s.Inv) (hr : t.regs = s.regs) (hv : t.vregs = s.vregs) (hm : t.mem = s.mem)
    (hs : t.stages = s.stages) (hi : t.impl = s.impl) : t.Inv where
  z := by rw [hr]; exact h.z
  vz := by rw [hv, hi]; exact h.vz
  lengths := by rw [hv, hi]; exact h.lengths
  mem := by rw [hm]; exact h.mem
  stages := by rw [hs]; exact h.stages
  legal := by rw [hi]; exact h.legal

theorem inv_setReg {s : State} (h : s.Inv) (r : Reg) (v : Word) : (s.setReg r v).Inv where
  z := by
    unfold State.setReg
    by_cases hr : r = Reg.z
    · simp [hr, h.z]
    · have : r.toNat ≠ 0 := fun h0 => hr (BitVec.eq_of_toNat_eq h0)
      simp [hr, Vector.getElem_set, this, h.z]
  vz := h.vz
  lengths := h.lengths
  mem := h.mem
  stages := h.stages
  legal := h.legal

theorem inv_setElem {s : State} (h : s.Inv) (r : Reg) (i : Nat) (v : Word) : (s.setElem r i v).Inv where
  z := h.z
  vz := by
    have := h.vz
    unfold State.setElem
    by_cases hr : r = Reg.z
    · simpa [hr] using this
    · have h0 : r.toNat ≠ 0 := fun h0 => hr (BitVec.eq_of_toNat_eq h0)
      simpa [hr, Vector.getElem_set, h0] using this
  lengths := fun k => by rw [setElem_length]; exact h.lengths k
  mem := h.mem
  stages := h.stages
  legal := h.legal

theorem inv_advance {s : State} (h : s.Inv) : s.advance.Inv := inv_of_same h rfl rfl rfl rfl rfl

theorem inv_jump {s : State} (h : s.Inv) (t : Word) : (s.jump t).Inv := inv_of_same h rfl rfl rfl rfl rfl

theorem inv_memWrite {s : State} (h : s.Inv) (a : Word) (n : Nat) (v : Word) : (s.memWrite a n v).Inv where
  z := by rw [memWrite_regs]; exact h.z
  vz := by rw [memWrite_vregs, memWrite_impl]; exact h.vz
  lengths := by rw [memWrite_vregs, memWrite_impl]; exact h.lengths
  mem := memWrite_mem_wf _ _ _ _ h.mem
  stages := memWrite_stages_wf _ _ _ _ h.stages
  legal := by rw [memWrite_impl]; exact h.legal

theorem inv_moveStage {s : State} (h : s.Inv) (r : CacheRange) (f t : Stage) (ht : t ≠ .clean) :
    (s.moveStage r f t).Inv where
  z := h.z
  vz := h.vz
  lengths := h.lengths
  mem := h.mem
  stages := moveStage_wf h.stages r f t ht
  legal := h.legal

theorem inv_syncStages {s : State} (h : s.Inv) : s.syncStages.Inv where
  z := h.z
  vz := h.vz
  lengths := h.lengths
  mem := h.mem
  stages := syncStages_wf h.stages
  legal := h.legal

theorem inv_setA {s : State} (h : s.Inv) (v : VMode) (a : Reg) (i : Nat) (w : Word) : (setA v a i w s).Inv := by
  cases v
  · exact inv_setReg h a w
  · exact inv_setElem h a i w
  · exact inv_setElem h a i w
  · exact inv_setElem h a i w

/-- The length of a vector register of a well-formed state (R20). -/
theorem inv_length {s : State} (h : s.Inv) (r : Reg) : (s.vregs[r.toFin]).length = s.impl.elements := h.lengths r.toFin

/-- A moment of standby keeps everything but the standby state, which it can only end, and the host's stream (R327). -/
theorem standbyMoment_cases (s : State) :
    (s.host.nextWake = none ∧ standbyMoment s = s) ∨
      ∃ b h, s.host.nextWake = some (b, h) ∧
        standbyMoment s = { s with standby := s.standby && !b, host := h } := by
  unfold standbyMoment
  cases h : s.host.nextWake with
  | none => exact .inl ⟨rfl, rfl⟩
  | some w => exact .inr ⟨w.1, w.2, rfl, rfl⟩

theorem inv_standbyMoment {s : State} (h : s.Inv) : (standbyMoment s).Inv := by
  obtain ⟨-, e⟩ | ⟨b, p, -, e⟩ := standbyMoment_cases s <;> rw [e]
  · exact h
  · exact inv_of_same h rfl rfl rfl rfl rfl

end Sys2Proof.Machine
end

