-- ==== Sys2Proof/Laws/Loops.lean ====
section
/-! SUPPORT. What the element loops do: the result of every element in terms of the state before the instruction, and
the frame. -/

namespace Sys2Proof.Machine

/-! ### Induction over the loops -/

/-- A property that every element's body carries from i to i + 1 holds after the loop. -/
theorem foldElems_induct {body : Nat → State → State} (P : Nat → State → Prop) {n i : Nat} {s : State} (h0 : P i s)
    (hstep : ∀ k s', i ≤ k → k < i + n → P k s' → P (k + 1) (body k s')) : P (i + n) (foldElems body n i s) := by
  induction n generalizing i s with
  | zero => exact h0
  | succ n ih =>
    have := ih (hstep i s (le_refl i) (by omega) h0) fun k s' h1 h2 => hstep k s' (by omega) (by omega)
    rwa [show i + 1 + n = i + (n + 1) by omega] at this

/-- The same for a body that can stop: the property holds after a loop that gives a next state. -/
theorem forElems_induct {body : Nat → State → Result} (P : Nat → State → Prop) {n i : Nat} {s t : State} (h0 : P i s)
    (hstep : ∀ k s' t', i ≤ k → k < i + n → P k s' → body k s' = .next t' → P (k + 1) t')
    (h : forElems body n i s = .next t) : P (i + n) t := by
  induction n generalizing i s with
  | zero =>
    obtain rfl : s = t := by simpa [forElems] using h
    exact h0
  | succ n ih =>
    obtain ⟨s', h1, h2⟩ := andThen_eq_next.1 h
    have := ih (hstep i s s' (le_refl i) (by omega) h0 h1) (fun k s' t' h1 h2 => hstep k s' t' (by omega) (by omega)) h2
    rwa [show i + 1 + n = i + (n + 1) by omega] at this

/-- A loop that faults does so at one element, after the property has been carried there (R138). -/
theorem forElems_fault {body : Nat → State → Result} (P : Nat → State → Prop) {n i : Nat} {s : State} {f : Fault}
    (h0 : P i s) (hstep : ∀ k s' t', i ≤ k → k < i + n → P k s' → body k s' = .next t' → P (k + 1) t')
    (h : forElems body n i s = .fault f) : ∃ k s', i ≤ k ∧ k < i + n ∧ P k s' ∧ body k s' = .fault f := by
  induction n generalizing i s with
  | zero => simp [forElems] at h
  | succ n ih =>
    rcases andThen_eq_fault.1 h with h1 | ⟨s', h1, h2⟩
    · exact ⟨i, s, le_refl i, by omega, h0, h1⟩
    · obtain ⟨k, s'', hk, hk', hP, hf⟩ :=
        ih (hstep i s s' (le_refl i) (by omega) h0 h1) (fun k s' t' h1 h2 => hstep k s' t' (by omega) (by omega)) h2
      exact ⟨k, s'', by omega, by omega, hP, hf⟩

/-- A loop whose bodies all give a next state gives one. -/
theorem forElems_total {body : Nat → State → Result} (P : Nat → State → Prop) {n i : Nat} {s : State} (h0 : P i s)
    (hstep : ∀ k s', i ≤ k → k < i + n → P k s' → ∃ t', body k s' = .next t' ∧ P (k + 1) t') :
    ∃ t, forElems body n i s = .next t ∧ P (i + n) t := by
  induction n generalizing i s with
  | zero => exact ⟨s, rfl, h0⟩
  | succ n ih =>
    obtain ⟨s', h1, h2⟩ := hstep i s (le_refl i) (by omega) h0
    obtain ⟨t, h3, h4⟩ := ih h2 fun k s' h1 h2 => hstep k s' (by omega) (by omega)
    exact ⟨t, by simp [forElems, h1, h3], by rwa [show i + 1 + n = i + (n + 1) by omega] at h4⟩

/-! ### Operands -/

/-- Writing element i of operand a, read back (R11, R20, R21). -/
theorem setA_elem {s : State} (h : s.Inv) {v : VMode} (a q : Reg) {i : Nat} (j : Nat) (w : Word)
    (hi : v ≠ .scalar → i < s.impl.elements) :
    (setA v a i w s).elem q j = if v ≠ .scalar ∧ q = a ∧ a ≠ Reg.z ∧ j = i then w else s.elem q j := by
  cases v
  · simp [setA]
  all_goals
    simp only [setA, ne_eq, reduceCtorEq, not_false_eq_true, true_and]
    exact elem_setElem s a q i j w (by rw [inv_length h]; exact hi (by simp))

theorem setA_reg (s : State) (v : VMode) (a q : Reg) (i : Nat) (w : Word) :
    (setA v a i w s).reg q = if v = .scalar ∧ q = a ∧ a ≠ Reg.z then w else s.reg q := by
  cases v <;> simp [setA, reg_setReg]

section SetA

variable (s : State) (v : VMode) (a : Reg) (i : Nat) (w : Word)

@[simp] theorem setA_pc : (setA v a i w s).pc = s.pc := by cases v <;> rfl
@[simp] theorem setA_standby : (setA v a i w s).standby = s.standby := by cases v <;> rfl
@[simp] theorem setA_mem : (setA v a i w s).mem = s.mem := by cases v <;> rfl
@[simp] theorem setA_stages : (setA v a i w s).stages = s.stages := by cases v <;> rfl
@[simp] theorem setA_impl : (setA v a i w s).impl = s.impl := by cases v <;> rfl
@[simp] theorem setA_host : (setA v a i w s).host = s.host := by cases v <;> rfl

end SetA

/-- Two states that agree outside the register files. -/
structure SameRest (s t : State) : Prop where
  pc : t.pc = s.pc
  standby : t.standby = s.standby
  mem : t.mem = s.mem
  stages : t.stages = s.stages
  impl : t.impl = s.impl
  host : t.host = s.host

theorem SameRest.refl (s : State) : SameRest s s := ⟨rfl, rfl, rfl, rfl, rfl, rfl⟩

theorem SameRest.setA {s t : State} (h : SameRest s t) (v : VMode) (a : Reg) (i : Nat) (w : Word) :
    SameRest s (setA v a i w t) :=
  ⟨by simp [h.pc], by simp [h.standby], by simp [h.mem], by simp [h.stages], by simp [h.impl], by simp [h.host]⟩

/-- The first k elements of operand a hold `val`, and nothing else has changed in the register files. -/
structure Filled (s : State) (v : VMode) (a : Reg) (val : Nat → Word) (k : Nat) (t : State) : Prop where
  inv : t.Inv
  rest : SameRest s t
  reg : ∀ q, t.reg q = if v = .scalar ∧ 0 < k ∧ q = a ∧ a ≠ Reg.z then val 0 else s.reg q
  elem : ∀ q j, t.elem q j = if v ≠ .scalar ∧ q = a ∧ a ≠ Reg.z ∧ j < k then val j else s.elem q j

theorem Filled.start {s : State} (h : s.Inv) (v : VMode) (a : Reg) (val : Nat → Word) : Filled s v a val 0 s :=
  ⟨h, .refl s, by simp, by simp⟩

/-- One more element. -/
theorem Filled.next {s t : State} {v : VMode} {a : Reg} {val : Nat → Word} {k : Nat} (h : Filled s v a val k t)
    (hk : v ≠ .scalar → k < s.impl.elements) (h0 : v = .scalar → k = 0) :
    Filled s v a val (k + 1) (setA v a k (val k) t) where
  inv := inv_setA h.inv v a k _
  rest := h.rest.setA v a k _
  reg q := by
    rw [setA_reg, h.reg]
    by_cases hv : v = .scalar
    · simp [hv, h0 hv]
    · simp [hv]
  elem q j := by
    rw [setA_elem h.inv a q j _ (by rw [h.rest.impl]; exact hk), h.elem]
    by_cases hv : v = .scalar
    · simp [hv]
    · by_cases hq : q = a ∧ a ≠ Reg.z
      · by_cases hj : j = k
        · simp [hv, hq, hj]
        · have : j < k + 1 ↔ j < k := by omega
          simp [hv, hq, hj, this]
      · have : ¬(q = a ∧ a ≠ Reg.z ∧ j = k) := fun h => hq ⟨h.1, h.2.1⟩
        have h2 : ¬(q = a ∧ a ≠ Reg.z ∧ j < k) := fun h => hq ⟨h.1, h.2.1⟩
        have h3 : ¬(q = a ∧ a ≠ Reg.z ∧ j < k + 1) := fun h => hq ⟨h.1, h.2.1⟩
        simp only [this, h2, h3, and_false, ite_false]

/-- Operand a of the element to be written next is what it was before the instruction (R120, R129). -/
theorem Filled.opA {s t : State} {v : VMode} {a : Reg} {val : Nat → Word} {k : Nat} (h : Filled s v a val k t)
    (h0 : v = .scalar → k = 0) : opA v a k t = opA v a k s := by
  cases v <;> simp [Machine.opA, h.reg, h.elem, h0]

/-- Operand b likewise; in folding it is never an element already written (R129). -/
theorem Filled.opB {s t : State} {v : VMode} {a : Reg} {val : Nat → Word} {k : Nat} (h : Filled s v a val k t)
    (b : Reg) (m : Nat) (h0 : v = .scalar → k = 0) : opB v b m k t = opB v b m k s := by
  cases v <;> simp [Machine.opB, h.reg, h.elem, h0]

/-- Operand c likewise. -/
theorem Filled.opC {s t : State} {v : VMode} {a : Reg} {val : Nat → Word} {k : Nat} (h : Filled s v a val k t)
    (x : Third) (h0 : v = .scalar → k = 0) : opC v x k t = opC v x k s := by
  cases x <;> cases v <;> simp [Machine.opC, h.reg, h.elem, h0]

/-- The effective address of the next element is what it was before the instruction. -/
theorem Filled.effAddr {s t : State} {v : VMode} {a : Reg} {val : Nat → Word} {k : Nat} (h : Filled s v a val k t)
    (b : Reg) (x : Third) (scale : Nat) (h0 : v = .scalar → k = 0) :
    effAddr v b x scale k t = effAddr v b x scale k s := by
  have hr : t.reg b = s.reg b := by
    rw [h.reg, if_neg]
    rintro ⟨hv, hk, -⟩
    have := h0 hv
    omega
  unfold Machine.effAddr
  rw [h.opC x h0, hr]

/-! ### The vector length and the element count -/

theorem elemCount_scalar (s : State) : elemCount .scalar s = 1 := rfl

theorem elemCount_vector {v : VMode} (s : State) (hv : v ≠ .scalar) : elemCount v s = s.vl := by
  cases v <;> simp_all [elemCount]

theorem vl_le_elements {v : VMode} {s : State} (h : vlWithin v s = true) (hv : v ≠ .scalar) :
    s.vl ≤ s.impl.elements := by
  cases v <;> simp_all [vlWithin]; omega

/-! ### Slices -/

/-- The slice of a word is the word (R124). -/
theorem slices_word (f : SliceFn) (a b c : Word) : slices .word f a b c = f 32 a b c := rfl

/-- Byte k of a packed result comes from byte k of each operand (R124). -/
theorem slices_byte (f : SliceFn) (a b c : Word) {k : Nat} (hk : k < 4) :
    (slices .byte f a b c).extractLsb' (k * 8) 8 =
      f 8 (a.extractLsb' (k * 8) 8) (b.extractLsb' (k * 8) 8) (c.extractLsb' (k * 8) 8) := by
  have h : ∀ x3 x2 x1 x0 : BitVec 8, (x3 ++ x2 ++ x1 ++ x0).extractLsb' 0 8 = x0 ∧
      (x3 ++ x2 ++ x1 ++ x0).extractLsb' 8 8 = x1 ∧ (x3 ++ x2 ++ x1 ++ x0).extractLsb' 16 8 = x2 ∧
      (x3 ++ x2 ++ x1 ++ x0).extractLsb' 24 8 = x3 := by
    intro x3 x2 x1 x0
    refine ⟨?_, ?_, ?_, ?_⟩ <;>
    · apply BitVec.eq_of_getLsbD_eq
      intro i hi
      simp only [BitVec.getLsbD_extractLsb', BitVec.getLsbD_append]
      interval_cases i <;> simp
  interval_cases k
  · exact (h _ _ _ _).1
  · exact (h _ _ _ _).2.1
  · exact (h _ _ _ _).2.2.1
  · exact (h _ _ _ _).2.2.2

/-- Half-word k of a packed result comes from half-word k of each operand (R124). -/
theorem slices_half (f : SliceFn) (a b c : Word) {k : Nat} (hk : k < 2) :
    (slices .half f a b c).extractLsb' (k * 16) 16 =
      f 16 (a.extractLsb' (k * 16) 16) (b.extractLsb' (k * 16) 16) (c.extractLsb' (k * 16) 16) := by
  have h : ∀ x1 x0 : BitVec 16, (x1 ++ x0).extractLsb' 0 16 = x0 ∧ (x1 ++ x0).extractLsb' 16 16 = x1 := by
    intro x1 x0
    refine ⟨?_, ?_⟩ <;>
    · apply BitVec.eq_of_getLsbD_eq
      intro i hi
      simp only [BitVec.getLsbD_extractLsb', BitVec.getLsbD_append]
      interval_cases i <;> simp
  interval_cases k
  · exact (h _ _).1
  · exact (h _ _).2

/-! ### Register instructions -/

/-- Every element of a register instruction's result (R125, R126, R128 to R130), and its frame. -/
theorem writeElems_filled {s : State} (h : s.Inv) {v : VMode} (hv : vlWithin v s = true) (a b : Reg) (x : Third)
    (f : Word → Word → Word → Word) :
    Filled s v a (fun i => f (opA v a i s) (opB v b s.vl i s) (opC v x i s)) (elemCount v s)
      (writeElems v a b x f s) := by
  have := foldElems_induct
    (Filled s v a fun i => f (opA v a i s) (opB v b s.vl i s) (opC v x i s))
    (body := fun i s' => setA v a i (f (opA v a i s') (opB v b s.vl i s') (opC v x i s')) s')
    (n := elemCount v s) (i := 0) (Filled.start h v a _) ?_
  · simpa [writeElems] using this
  · intro k s' _ hk hf
    have h0 : v = .scalar → k = 0 := by rintro rfl; rw [elemCount_scalar] at hk; omega
    rw [hf.opA h0, hf.opB b s.vl h0, hf.opC x h0]
    refine hf.next (fun hs => ?_) h0
    have := vl_le_elements hv hs
    rw [elemCount_vector s hs] at hk
    omega

/-- When a register instruction gives a next state, and which (R137). -/
theorem runElems_eq_next {i : Instr} {v : VMode} {a b : Reg} {x : Third} {f : Word → Word → Word → Word}
    {s t : State} :
    runElems i v a b x f s = .next t ↔
      i.wellFormed = true ∧ i.available s.impl = true ∧ vlWithin v s = true ∧
        t = (writeElems v a b x f s).advance := by
  rw [runElems, gated_eq_next, vlChecked_eq_next]
  simp only [Host.Outcome.next.injEq, eq_comm]

/-! ### Loads, LDEA and stores -/

/-- A load that passes its checks at every element (R151). -/
theorem forElems_load {s : State} (h : s.Inv) {v : VMode} (hv : vlWithin v s = true) (a b : Reg) (x : Third)
    (scale n : Nat) (ext : BitVec (8 * n) → Word)
    (hal : ∀ i < elemCount v s, (effAddr v b x scale i s).toNat % n = 0)
    (hmap : ∀ i < elemCount v s, s.isMapped (effAddr v b x scale i s) n .read = true) :
    ∃ t, forElems (loadElem v a b x scale n ext) (elemCount v s) 0 s = .next t ∧
      Filled s v a (fun i => ext (s.memRead (effAddr v b x scale i s) n)) (elemCount v s) t := by
  have := forElems_total (Filled s v a fun i => ext (s.memRead (effAddr v b x scale i s) n))
    (body := loadElem v a b x scale n ext) (n := elemCount v s) (i := 0) (Filled.start h v a _) ?_
  · simpa using this
  · intro k s' _ hk hf
    have hk' : k < elemCount v s := by omega
    have h0 : v = .scalar → k = 0 := by rintro rfl; rw [elemCount_scalar] at hk; omega
    have hea : effAddr v b x scale k s' = effAddr v b x scale k s := hf.effAddr b x scale h0
    have hm : ∀ a m, s'.memRead a m = s.memRead a m := by
      intro a m
      unfold State.memRead
      congr 1
      induction m generalizing a with
      | zero => rfl
      | succ m ih => simp [State.bytesNat, State.byte, hf.rest.mem, ih]
    have hmp : s'.isMapped (effAddr v b x scale k s) n .read = true := by
      simpa [State.isMapped, hf.rest.impl] using hmap k hk'
    refine ⟨setA v a k (ext (s'.memRead (effAddr v b x scale k s) n)) s', ?_, ?_⟩
    · unfold loadElem
      rw [hea, checkAccess_pass _ (hal k hk') hmp]
    · rw [hm]
      refine hf.next (fun hs => ?_) h0
      have := vl_le_elements hv hs
      rw [elemCount_vector s hs] at hk'
      omega

/-- LDEA's results (R158). -/
theorem foldElems_ldea {s : State} (h : s.Inv) {v : VMode} (hv : vlWithin v s = true) (a b : Reg) (x : Third)
    (scale : Nat) :
    Filled s v a (fun i => effAddr v b x scale i s) (elemCount v s)
      (foldElems (fun i s' => setA v a i (effAddr v b x scale i s') s') (elemCount v s) 0 s) := by
  have := foldElems_induct (Filled s v a fun i => effAddr v b x scale i s)
    (body := fun i s' => setA v a i (effAddr v b x scale i s') s') (n := elemCount v s) (i := 0)
    (Filled.start h v a _) ?_
  · simpa using this
  · intro k s' _ hk hf
    have h0 : v = .scalar → k = 0 := by rintro rfl; rw [elemCount_scalar] at hk; omega
    have hea : effAddr v b x scale k s' = effAddr v b x scale k s := hf.effAddr b x scale h0
    rw [hea]
    refine hf.next (fun hs => ?_) h0
    have := vl_le_elements hv hs
    rw [elemCount_vector s hs] at hk
    omega

/-- The first k elements of n bytes each have been stored at `addr`, the later over the earlier (R52, R371), and
nothing but memory and stages has changed. -/
structure Stored (s : State) (addr val : Nat → Word) (n k : Nat) (t : State) : Prop where
  inv : t.Inv
  regs : t.regs = s.regs
  vregs : t.vregs = s.vregs
  pc : t.pc = s.pc
  standby : t.standby = s.standby
  impl : t.impl = s.impl
  host : t.host = s.host
  outside : ∀ x, (∀ i < k, n ≤ (x - addr i).toNat) → t.byte x = s.byte x ∧ t.stage x = s.stage x
  inside : ∀ i < k, ∀ x, (x - addr i).toNat < n → (∀ j, i < j → j < k → n ≤ (x - addr j).toNat) →
    t.byte x = (val i).extractLsb' (8 * (x - addr i).toNat) 8 ∧ t.stage x = .stored

/-- A store that passes its checks at every element (R152). -/
theorem forElems_store {s : State} (h : s.Inv) {v : VMode} (a b : Reg) (x : Third) (scale n : Nat) (hn : n ≤ 4)
    (hal : ∀ i < elemCount v s, (effAddr v b x scale i s).toNat % n = 0)
    (hmap : ∀ i < elemCount v s, s.isMapped (effAddr v b x scale i s) n .write = true) :
    ∃ t, forElems (storeElem v a b x scale n) (elemCount v s) 0 s = .next t ∧
      Stored s (fun i => effAddr v b x scale i s) (fun i => opA v a i s) n (elemCount v s) t := by
  have := forElems_total (Stored s (fun i => effAddr v b x scale i s) (fun i => opA v a i s) n)
    (body := storeElem v a b x scale n) (n := elemCount v s) (i := 0)
    ⟨h, rfl, rfl, rfl, rfl, rfl, rfl, fun _ _ => ⟨rfl, rfl⟩, fun i hi => absurd hi (Nat.not_lt_zero i)⟩ ?_
  · simpa using this
  · intro k s' _ hk hf
    have hk' : k < elemCount v s := by omega
    have hreg : ∀ r, s'.reg r = s.reg r := fun r => by simp [State.reg, hf.regs]
    have helem : ∀ r i, s'.elem r i = s.elem r i := fun r i => by simp [State.elem, hf.vregs]
    have hC : opC v x k s' = opC v x k s := by cases x <;> cases v <;> simp [opC, hreg, helem]
    have hea : effAddr v b x scale k s' = effAddr v b x scale k s := by simp [effAddr, hC, hreg]
    have hA : opA v a k s' = opA v a k s := by cases v <;> simp [opA, hreg, helem]
    have hmp : s'.isMapped (effAddr v b x scale k s) n .write = true := by
      simpa [State.isMapped, hf.impl] using hmap k hk'
    refine ⟨_, by unfold storeElem; rw [hea, hA, checkAccess_pass _ (hal k hk') hmp], ?_⟩
    refine ⟨inv_memWrite hf.inv _ _ _, by simp [hf.regs], by simp [hf.vregs], by simp [hf.pc], by simp [hf.standby],
      by simp [hf.impl], by simp [hf.host], ?_, ?_⟩
    · intro y hy
      rw [memWrite_byte _ _ _ _ hf.inv.mem hn, memWrite_stage _ _ _ _ hf.inv.stages hn]
      have hyk := hy k (Nat.lt_succ_self k)
      rw [if_neg (by omega), if_neg (by omega)]
      exact hf.outside y fun i hi => hy i (by omega)
    · intro i hi y hy hlast
      rw [memWrite_byte _ _ _ _ hf.inv.mem hn, memWrite_stage _ _ _ _ hf.inv.stages hn]
      by_cases hik : i = k
      · subst hik
        rw [if_pos hy, if_pos hy]
        exact ⟨rfl, rfl⟩
      · have hyk := hlast k (by omega) (Nat.lt_succ_self k)
        rw [if_neg (by omega), if_neg (by omega)]
        exact hf.inside i (by omega) y hy fun j h1 h2 => hlast j h1 (by omega)

end Sys2Proof.Machine
end

