-- ==== Sys2Proof/Laws/Exec.lean ====
section
/-! SUPPORT. What the 143 arms of exec are, said once: each is one of the shared runs, checked by `gated`. -/

namespace Sys2Proof.Machine

/-- Every meaning begins with the availability check (R97, R133). -/
theorem exec_gated (i : Instr) (s : State) : ∃ k, exec i s = gated i s k := by
  cases i <;> exact ⟨_, rfl⟩

/-- A meaning is a register instruction, a load, a store or LDEA with the destination in its REGa field, a branch, or
one of the thirteen instructions that have an operation of their own. -/
def ExecShape (i : Instr) (s : State) : Prop :=
  (∃ v a b x f, exec i s = runElems i v a b x f s ∧ destination i = some a) ∨
  (∃ v a b x k n ext, exec i s = runLoad i v a b x k n ext s ∧ destination i = some a) ∨
  (∃ v a b x k, exec i s = runLdea i v a b x k s ∧ destination i = some a) ∨
  (∃ v a b x k n, n ≤ 4 ∧ exec i s = runStore i v a b x k n s ∧ isStore i = true) ∨
  (∃ im h, exec i s = runBranch i im h s ∧ isControlFlow i = true) ∨
  (∃ a b c, i = .xchgsr a b c) ∨ (∃ a b im, i = .xchgsrI a b im) ∨ (∃ a b, i = .cctrl a b) ∨ i = .wait ∨ i = .sync ∨
  (∃ a im, i = .j a im) ∨ (∃ a im, i = .jl a im) ∨ (∃ a im, i = .ldwpc a im) ∨ (∃ a im, i = .stwpc a im) ∨
  (∃ a im, i = .addpc a im) ∨ (∃ a im, i = .addpchi a im) ∨ (∃ a im, i = .ldi a im)

/-- Every instruction has one of the shapes. -/
theorem exec_shape (i : Instr) (s : State) : ExecShape i s := by
  unfold ExecShape
  cases i
  case clz | ctz | clo | cto | popcnt | rev | funpl | funph | crc32c | crc32 =>
    exact .inl ⟨_, _, _, _, _, rfl, congrArg some (fmtA_a ..)⟩
  case stb | sth | stw =>
    refine .inr (.inr (.inr (.inl ⟨_, _, _, _, _, _, ?_, rfl, rfl⟩)))
    decide
  case ldb | ldh | ldw | ldub | lduh =>
    exact .inr (.inl ⟨_, _, _, _, _, _, _, rfl, congrArg some (fmtB_a ..)⟩)
  case ldea =>
    exact .inr (.inr (.inl ⟨_, _, _, _, _, rfl, congrArg some (fmtB_a ..)⟩))
  case and | or | xor | ebf | ebfu | mkbf | add | sub | min | max | minu | maxu | seq | sne | slt | sltu | sle
      | sleu | shuf | mul | div | divu | rem | remu | madd | sel | ibf | mulhi | mulhiu | mulq | mulqr | pack
      | packs | packsu | packhi | packhir | packhiur | fmin | fmax | fseq | fsne | fslt | fsle | fsunord
      | fsord | itof | utof | ftoi | ftou | ftoir | ftour | fpack | fadd | fsub | fmul | fdiv | adds | addsu
      | addh | addhu | addhr | addhur | subs | subsu | subh | subhu | subhr | subhur =>
    exact .inl ⟨_, _, _, _, _, rfl, congrArg some (fmtB_a ..)⟩
  case stbI | sthI | stwI =>
    refine .inr (.inr (.inr (.inl ⟨_, _, _, _, _, _, ?_, rfl, rfl⟩)))
    decide
  case ldbI | ldhI | ldwI | ldubI | lduhI =>
    exact .inr (.inl ⟨_, _, _, _, _, _, _, rfl, congrArg some (fmtC_a ..)⟩)
  case ldeaI =>
    exact .inr (.inr (.inl ⟨_, _, _, _, _, rfl, congrArg some (fmtC_a ..)⟩))
  case andI | orI | xorI | ebfI | ebfuI | mkbfI | addI | subI | minI | maxI | minuI | maxuI | seqI | sneI
      | sltI | sltuI | sleI | sleuI | shufI | mulI | divI | divuI | remI | remuI | maddI | selI | ibfI =>
    exact .inl ⟨_, _, _, _, _, rfl, congrArg some (fmtC_a ..)⟩
  case bz | bnz | bs | bns | bltz | bgez | blez | bgtz =>
    exact .inr (.inr (.inr (.inr (.inl ⟨_, _, rfl, rfl⟩))))
  all_goals simp

end Sys2Proof.Machine
end

