-- ==== Sys2Proof/Laws/Host.lean ====
section
/-! SUPPORT. The open parameters that State holds as data lose nothing: every Mapped of R5's type is a list of regions,
every Halt on the architectural state is a HaltPred, and the Wake stream's next entry, case by case. -/

namespace Sys2Proof.Machine

/-! ### Mapped (R5, R47) -/

/-- The region that takes in just the accesses of n bytes of one kind at one address. -/
def oneAccess (a n : Nat) (k : AccessKind) : Region where
  base := a
  size := 1
  widths := [n]
  canFetch := decide (k = .fetch)
  canRead := decide (k = .read)
  canWrite := decide (k = .write)

theorem oneAccess_accepts (a n m : Nat) (k kind : AccessKind) (addr : Word) :
    Region.accepts (oneAccess a n k) addr m kind = decide (addr.toNat = a ∧ m = n ∧ kind = k) := by
  rw [Bool.eq_iff_iff]
  cases k <;> cases kind <;> simp [Region.accepts, oneAccess] <;> omega

/-- The regions of a predicate, for the addresses below a bound. -/
def regionsOf (P : Nat → Nat → AccessKind → Bool) (bound : Nat) : List Region :=
  (List.range bound).flatMap fun a => [1, 2, 4].flatMap fun n => [AccessKind.fetch, .read, .write].flatMap fun k =>
    if P a n k then [oneAccess a n k] else []

theorem regionsOf_accepts (P : Nat → Nat → AccessKind → Bool) (bound : Nat) (addr : Word) (n : Nat) (kind : AccessKind)
    (ha : addr.toNat < bound) (hn : n ∈ [1, 2, 4]) :
    (regionsOf P bound).any (fun r => Region.accepts r addr n kind) = P addr.toNat n kind := by
  rw [Bool.eq_iff_iff, List.any_eq_true]
  constructor
  · rintro ⟨r, hr, hacc⟩
    simp only [regionsOf, List.mem_flatMap] at hr
    obtain ⟨a, -, m, -, k, -, hr⟩ := hr
    split at hr
    · next hP =>
      rw [List.mem_singleton.mp hr, oneAccess_accepts, decide_eq_true_iff] at hacc
      obtain ⟨rfl, rfl, rfl⟩ := hacc
      exact hP
    · cases hr
  · intro hP
    refine ⟨oneAccess addr.toNat n kind, ?_, by rw [oneAccess_accepts]; simp⟩
    simp only [regionsOf, List.mem_flatMap]
    refine ⟨_, List.mem_range.mpr ha, n, hn, kind, by cases kind <;> simp, ?_⟩
    rw [if_pos hP]
    exact List.mem_singleton.mpr rfl

/-- Every predicate on address, size and kind is the Mapped of some list of regions (R5). -/
theorem mapped_complete (P : Word → Nat → AccessKind → Bool) :
    ∃ l : List Region, ∀ s : State, s.impl.mapped = l → ∀ addr n kind, n ∈ [1, 2, 4] →
      s.isMapped addr n kind = P addr n kind := by
  refine ⟨regionsOf (fun a => P (BitVec.ofNat 32 a)) (2 ^ 32), fun s hs addr n kind hn => ?_⟩
  unfold State.isMapped
  rw [hs, regionsOf_accepts _ _ _ _ _ addr.isLt hn, BitVec.ofNat_toNat, BitVec.setWidth_eq]

/-! ### Wake (R327) -/

theorem nextWake_cons (h : HostPort) (b : Bool) (l : List Bool) (e : h.wakes = b :: l) :
    h.nextWake = some (b, { h with wakes := l }) := by simp [HostPort.nextWake, e]

theorem nextWake_endless (h : HostPort) (k : Nat) (e : h.wakes = []) (t : h.wakesThen = some k) :
    h.nextWake = some (Config.wake k, { h with wakesThen := some (k + 1) }) := by simp [HostPort.nextWake, e, t]

/-- The stream is exhausted just when nothing is listed and it does not go on. -/
theorem nextWake_eq_none {h : HostPort} : h.nextWake = none ↔ h.wakes = [] ∧ h.wakesThen = none := by
  unfold HostPort.nextWake
  cases h.wakes <;> cases h.wakesThen <;> simp

/-! ### Halt (R366) -/

/-- Every Boolean function of the facts of a finite list is a HaltPred. -/
theorem haltPred_of_facts (l : List HaltPred) (Q : State → Bool)
    (hQ : ∀ s t, (∀ a ∈ l, a.holds s = a.holds t) → Q s = Q t) : ∃ p : HaltPred, ∀ s, p.holds s = Q s := by
  classical
  induction l generalizing Q with
  | nil =>
    by_cases h : ∃ s, Q s = true
    · obtain ⟨t, ht⟩ := h
      exact ⟨.not .never, fun s => by rw [hQ s t (by simp), ht]; rfl⟩
    · exact ⟨.never, fun s => by
        cases hs : Q s with
        | false => rfl
        | true => exact absurd ⟨s, hs⟩ h⟩
  | cons a l ih =>
    -- what Q says of the states that agree on `l`, once for each truth value of `a`
    let half (b : Bool) (s : State) : Bool :=
      decide (∃ t, (∀ c ∈ l, c.holds s = c.holds t) ∧ a.holds t = b ∧ Q t = true)
    have respects (b : Bool) (s t : State) (h : ∀ c ∈ l, c.holds s = c.holds t) : half b s = half b t := by
      simp only [half, decide_eq_decide]
      exact exists_congr fun u => and_congr_left fun _ =>
        forall₂_congr fun c hc => by rw [h c hc]
    have agrees (s : State) : half (a.holds s) s = Q s := by
      rw [Bool.eq_iff_iff]
      simp only [half, decide_eq_true_iff]
      constructor
      · rintro ⟨t, hl, ha, ht⟩
        rw [hQ s t fun c hc => ?_, ht]
        rcases List.mem_cons.mp hc with rfl | hc
        · exact ha.symm
        · exact hl c hc
      · exact fun h => ⟨s, fun _ _ => rfl, rfl, h⟩
    obtain ⟨p, hp⟩ := ih (half true) (respects true)
    obtain ⟨q, hq⟩ := ih (half false) (respects false)
    refine ⟨.either (.both a p) (.both (.not a) q), fun s => ?_⟩
    rw [← agrees s]
    cases h : a.holds s <;> simp [HaltPred.holds, h, hp, hq]

/-- Two states are the same to the architecture: registers, pc, elements below a bound, bytes, cache stages, standby. -/
structure SameArch (bound : Nat) (s t : State) : Prop where
  pc : s.pc = t.pc
  reg : ∀ r, s.reg r = t.reg r
  elem : ∀ r i, i < bound → s.elem r i = t.elem r i
  byte : ∀ a, s.byte a = t.byte a
  stage : ∀ a, s.stage a = t.stage a
  standby : s.standby = t.standby

/-- The facts that name a word below the bound `words`, for elements below `bound`; with 2^32 words these are all. -/
def factsOf (bound words : Nat) : List HaltPred :=
  [.inStandby] ++
    (List.range words).flatMap fun v =>
      [.pcIs (BitVec.ofNat 32 v)] ++
      ((List.range 32).flatMap fun r =>
        [.regIs (BitVec.ofNat 5 r) (BitVec.ofNat 32 v)] ++
        (List.range bound).map fun i => .elemIs (BitVec.ofNat 5 r) i (BitVec.ofNat 32 v)) ++
      ((List.range 256).map fun b => .byteIs (BitVec.ofNat 32 v) (BitVec.ofNat 8 b)) ++
      ([Stage.clean, .stored, .flushed, .invalidated].map fun g => .stageIs (BitVec.ofNat 32 v) g)

/-- Two values are equal when the fact that names one of them holds of both or of neither. -/
theorem eq_of_fact {α : Type} [DecidableEq α] {x y : α} (h : decide (x = x) = decide (y = x)) : x = y := by
  simpa [eq_comm] using h

theorem sameArch_of_facts (bound words : Nat) (hw : words = 2 ^ 32) (s t : State)
    (h : ∀ p ∈ factsOf bound words, p.holds s = p.holds t) : SameArch bound s t := by
  have word (v : Word) : v.toNat ∈ List.range words := List.mem_range.mpr (hw ▸ v.isLt)
  have name (v : Word) : BitVec.ofNat 32 v.toNat = v := by simp
  have rname (r : Reg) : BitVec.ofNat 5 r.toNat = r := by simp
  have inner {p : HaltPred} (v : Word) (hp : p ∈
      ([.pcIs v] ++ ((List.range 32).flatMap fun r => [.regIs (BitVec.ofNat 5 r) v] ++
        (List.range bound).map fun i => .elemIs (BitVec.ofNat 5 r) i v) ++
        ((List.range 256).map fun b => .byteIs v (BitVec.ofNat 8 b)) ++
        ([Stage.clean, .stored, .flushed, .invalidated].map fun g => .stageIs v g) : List HaltPred)) :
      p.holds s = p.holds t :=
    h p (List.mem_append_right _ (List.mem_flatMap.mpr ⟨v.toNat, word v, by rw [name]; exact hp⟩))
  refine ⟨?_, fun r => ?_, fun r i hi => ?_, fun a => ?_, fun a => ?_, ?_⟩
  · exact eq_of_fact (inner (p := .pcIs s.pc) s.pc (by simp))
  · refine eq_of_fact (inner (p := .regIs r (s.reg r)) (s.reg r) ?_)
    simp only [List.mem_append, List.mem_flatMap]
    exact .inl (.inl (.inr ⟨r.toNat, List.mem_range.mpr r.isLt, by rw [rname]; simp⟩))
  · refine eq_of_fact (inner (p := .elemIs r i (s.elem r i)) (s.elem r i) ?_)
    simp only [List.mem_append, List.mem_flatMap]
    refine .inl (.inl (.inr ⟨r.toNat, List.mem_range.mpr r.isLt, .inr (List.mem_map.mpr ⟨i, List.mem_range.mpr hi, ?_⟩)⟩))
    rw [rname]
  · refine eq_of_fact (inner (p := .byteIs a (s.byte a)) a ?_)
    simp only [List.mem_append]
    exact .inl (.inr (List.mem_map.mpr ⟨(s.byte a).toNat, List.mem_range.mpr (s.byte a).isLt, by simp⟩))
  · refine eq_of_fact (inner (p := .stageIs a (s.stage a)) a ?_)
    simp only [List.mem_append]
    exact .inr (List.mem_map.mpr ⟨s.stage a, by cases s.stage a <;> simp, rfl⟩)
  · exact h .inStandby (List.mem_append_left _ (List.mem_singleton.mpr rfl))

/-- Every predicate on the architectural state, with any number of elements, is the Halt of some HaltPred (R366). -/
theorem halt_complete (bound : Nat) (Q : State → Bool) (hQ : ∀ s t, SameArch bound s t → Q s = Q t) :
    ∃ p : HaltPred, ∀ s : State, s.host.halt = p → s.halts = Q s := by
  obtain ⟨p, hp⟩ := haltPred_of_facts (factsOf bound (2 ^ 32)) Q
    fun s t h => hQ s t (sameArch_of_facts bound _ rfl s t h)
  exact ⟨p, fun s hs => by rw [State.halts, hs, hp]⟩

end Sys2Proof.Machine
end

