-- ==== Sys2Proof/Tests/Slice0.lean ====
section
/-! SUPPORT. Tests of the model. Every expected value is the spec's: the worked examples and vectors of
spec/95_test_vectors.md, the encodings of spec/30_encoding.md, or the text of the rule named. The last part shows, for
every obligation that has hypotheses, a state and operands that meet them all. -/

namespace Sys2Proof.Tests

open Sys2Proof Sys2Proof.Machine Sys2Proof.Claims

set_option Elab.async false

/-! ### Small states -/

/-- The reset state with some scalar registers set. -/
def loaded (l : List (Reg × Word)) : State := l.foldl (fun s p => s.setReg p.1 p.2) State.reset

/-- The same with elements of a vector register set, from element 0 on. -/
def filled (l : List (Reg × Word)) (r : Reg) (ws : List Word) : State :=
  ws.zipIdx.foldl (fun s p => s.setElem r p.2 p.1) (loaded l)

/-- A state on a machine with other parameters. -/
def onImpl (p : Impl) (s : State) : State := { s with impl := p }

/-- The scalar register d after one instruction word. -/
def after (iw : Word) (l : List (Reg × Word)) (d : Reg) : Option Word :=
  match stepWord iw (loaded l) with
  | .next t => some (t.reg d)
  | .fault _ => none
  | .refused _ => none

/-- Something of the next state of one instruction word. -/
def next {α : Type} (iw : Word) (s : State) (f : State → α) : Option α :=
  match stepWord iw s with
  | .next t => some (f t)
  | .fault _ => none
  | .refused _ => none

/-- What an instruction word faults with, the reported state replaced by the state after reset. -/
def faultOf (iw : Word) (s : State) : Option Fault :=
  match stepWord iw s with
  | .next _ => none
  | .refused _ => none
  | .fault f => some (match f with
    | .misalignedFetch a _ => .misalignedFetch a State.reset
    | .accessFault a k _ => .accessFault a k State.reset
    | .staleInstructionFetch a _ => .staleInstructionFetch a State.reset
    | .illegalInstruction w _ => .illegalInstruction w State.reset
    | .vectorLengthFault n _ => .vectorLengthFault n State.reset
    | .misalignedAccess a n _ => .misalignedAccess a n State.reset
    | .unknownSystemRegister n _ => .unknownSystemRegister n State.reset
    | .readOnlySystemRegister n _ => .readOnlySystemRegister n State.reset
    | .dirtyDataInvalidate a b _ => .dirtyDataInvalidate a b State.reset)

/-- Memory M0 of section 2.1 of spec/95_test_vectors.md, with R2 = 0x2000 and more registers. -/
def m0 (l : List (Reg × Word)) : State :=
  ((((loaded ((2#5, 0x2000#32) :: l)).memWrite 0x2000#32 4 0x76543210#32).memWrite 0x2004#32 4
    0xFEDCBA98#32).memWrite 0x2008#32 4 0x80FF7F01#32).memWrite 0x200C#32 4 0x00000003#32

/-! ### Well-formedness: each check refuses an ill-formed term (R74, R93) -/

theorem test_wf_ldb_fold : (Instr.ldb .fold .x1 1#5 2#5 3#5).wellFormed = false := by decide
theorem test_wf_ldh_fold : (Instr.ldh .fold .x1 1#5 2#5 3#5).wellFormed = false := by decide
theorem test_wf_ldw_fold : (Instr.ldw .fold .x4 1#5 2#5 3#5).wellFormed = false := by decide
theorem test_wf_ldub_fold : (Instr.ldub .fold .x1 1#5 2#5 3#5).wellFormed = false := by decide
theorem test_wf_lduh_fold : (Instr.lduh .fold .x1 1#5 2#5 3#5).wellFormed = false := by decide
theorem test_wf_ldea_fold : (Instr.ldea .fold .x1 1#5 2#5 3#5).wellFormed = false := by decide
theorem test_wf_stb_fold : (Instr.stb .fold .x1 1#5 2#5 3#5).wellFormed = false := by decide
theorem test_wf_sth_fold : (Instr.sth .fold .x1 1#5 2#5 3#5).wellFormed = false := by decide
theorem test_wf_stw_fold : (Instr.stw .fold .x1 1#5 2#5 3#5).wellFormed = false := by decide
theorem test_wf_fpack_byte : (Instr.fpack .scalar .byte 1#5 2#5 3#5).wellFormed = false := by decide
theorem test_wf_funpl_byte : (Instr.funpl .scalar .byte 1#5 2#5).wellFormed = false := by decide
theorem test_wf_funph_byte : (Instr.funph .vector .byte 1#5 2#5).wellFormed = false := by decide
theorem test_wf_ldw_ok : (Instr.ldw .vecVec .x4 1#5 2#5 3#5).wellFormed = true := by decide
theorem test_wf_fpack_ok : (Instr.fpack .fold .half 1#5 2#5 3#5).wellFormed = true := by decide

/-! ### Decoding: words written out field by field from R71 and R88 to R92 -/

/-- Format A: 0000, OP[9:8], REGa, REGb, V, OP[7:2], T, 00000, OP[1:0]; REV is OP 5. -/
theorem test_decode_rev : decodeWord 0b0000_00_00001_00010_1_000001_01_00000_01#32 = .ok (.rev .vector .byte 1#5 2#5) := by
  decide

/-- Format A, FUNPH: OP 65. -/
theorem test_decode_funph :
    decodeWord 0b0000_00_00001_00010_0_010000_10_00000_01#32 = .ok (.funph .scalar .half 1#5 2#5) := by decide

/-- Format A, CRC32C: OP 136. -/
theorem test_decode_crc32c :
    decodeWord 0b0000_00_00001_00010_0_100010_10_00000_00#32 = .ok (.crc32c .scalar .w32 1#5 2#5) := by decide

/-- Format A, WAIT, SYNC and CCTRL: OP 128, 129, 130. -/
theorem test_decode_wait : decodeWord 0b0000_00_00000_00000_0_100000_00_00000_00#32 = .ok .wait := by decide
theorem test_decode_sync : decodeWord 0b0000_00_00000_00000_0_100000_00_00000_01#32 = .ok .sync := by decide
theorem test_decode_cctrl : decodeWord 0b0000_00_00011_00100_0_100000_00_00000_10#32 = .ok (.cctrl 3#5 4#5) := by decide

/-- Format B: 0000, OP[8:7], REGa, REGb, V, REGc, T, OP[6:0]; LDW is OP 10, T the scale. -/
theorem test_decode_ldw :
    decodeWord 0b0000_00_00100_00101_11_00010_10_0001010#32 = .ok (.ldw .vecVec .x4 4#5 5#5 2#5) := by decide

/-- Format B, STB: OP 4. -/
theorem test_decode_stb :
    decodeWord 0b0000_00_00001_00010_00_00011_00_0000100#32 = .ok (.stb .scalar .x1 1#5 2#5 3#5) := by decide

/-- Format B, ADD: OP 22, folding, half-words. -/
theorem test_decode_add :
    decodeWord 0b0000_00_00001_00010_01_00011_10_0010110#32 = .ok (.add .fold .half 1#5 2#5 3#5) := by decide

/-- Format B, AND: OP 16, T = 01 complements c. -/
theorem test_decode_and :
    decodeWord 0b0000_00_00001_00010_10_00011_01_0010000#32 = .ok (.and .vecScalar .pn 1#5 2#5 3#5) := by decide

/-- Format B, SEL: OP 46, T = 11 is .231. -/
theorem test_decode_sel :
    decodeWord 0b0000_00_00110_00111_00_01000_11_0101110#32 = .ok (.sel .scalar .p231 6#5 7#5 8#5) := by decide

/-- Format B, XCHGSR: OP 36. -/
theorem test_decode_xchgsr :
    decodeWord 0b0000_00_00001_00000_00_00011_00_0100100#32 = .ok (.xchgsr 1#5 0#5 3#5) := by decide

/-- Format B, PACKHIUR: OP 63. -/
theorem test_decode_packhiur :
    decodeWord 0b0000_00_00001_00010_00_00011_01_0111111#32 = .ok (.packhiur .scalar .byte 1#5 2#5 3#5) := by decide

/-- Format B, FDIV: OP 83. -/
theorem test_decode_fdiv :
    decodeWord 0b0000_00_00001_00010_00_00011_10_1010011#32 = .ok (.fdiv .scalar .half 1#5 2#5 3#5) := by decide

/-- Format B, SUBHUR: OP 107, the last. -/
theorem test_decode_subhur :
    decodeWord 0b0000_00_00001_00010_00_00011_00_1101011#32 = .ok (.subhur .scalar .word 1#5 2#5 3#5) := by decide

/-- Format C: OP, REGa, REGb, V, IM; IBF is OP 47, the last. -/
theorem test_decode_ibfI :
    decodeWord 0b101111_00001_00010_1_000100000000100#32 = .ok (.ibfI .vector 1#5 2#5 0x804#15) := by decide

/-- Format C, STB: OP 4, the first. -/
theorem test_decode_stbI :
    decodeWord 0b000100_00001_00010_0_111111111111111#32 = .ok (.stbI .scalar 1#5 2#5 0x7FFF#15) := by decide

/-- Format D: 110, OP, REGa, IM; LDI is OP 6. -/
theorem test_decode_ldi :
    decodeWord 0b110_110_00001_101111111111111111111#32 = .ok (.ldi 1#5 0x17FFFF#21) := by decide

/-- Format D, J: OP 0. -/
theorem test_decode_j : decodeWord 0b110_000_11110_000000000000000000000#32 = .ok (.j 30#5 0#21) := by decide

/-- Format E: 110111, REGa, OP, IM; BGTZ is OP 7. -/
theorem test_decode_bgtz :
    decodeWord 0b110111_00001_111_100000000000000000#32 = .ok (.bgtz 1#5 0x20000#18) := by decide

/-! Reserved and vacant words (section 2.10 of spec/95_test_vectors.md) -/

theorem test_decode_add_t3 : decodeWord 0x00220796#32 = .error .reservedT := by decide
theorem test_decode_ldw_fold : decodeWord 0x0022460A#32 = .error .reservedV := by decide
theorem test_decode_shuf_t1 : decodeWord 0x002206A2#32 = .error .reservedBits := by decide
theorem test_decode_wait_rega : decodeWord 0x00204000#32 = .error .reservedBits := by decide
theorem test_decode_vacant_a : decodeWord 0x04220000#32 = .error (.vacant .a 256) := by decide
theorem test_decode_vacant_b : decodeWord 0x04220616#32 = .error (.vacant .b 150) := by decide
theorem test_decode_vacant_c : decodeWord 0x94220000#32 = .error (.vacant .c 37) := by decide
theorem test_decode_short : decodeBytes [0x16#8, 0x06#8, 0x22#8] = .error .truncated := by decide
theorem test_table_word : decodeTableWord 32 0x00220616 = some (.add .scalar .word 1#5 2#5 3#5) := by decide

/-! ### One step on scalar registers (spec/95_test_vectors.md, sections 1.1 and 2) -/

/-- `clz.h r1, r2`. -/
theorem test_clz : after 0x00220100#32 [(2#5, 0x00000001#32)] 1#5 = some 0x0010000F#32 := by decide

/-- `ctz.h r1, r2`. -/
theorem test_ctz : after 0x00220101#32 [(2#5, 0x80000100#32)] 1#5 = some 0x000F0008#32 := by decide

/-- `clo.b r1, r2`. -/
theorem test_clo : after 0x00220082#32 [(2#5, 0xFFF0807F#32)] 1#5 = some 0x08040100#32 := by decide

/-- `cto.h r1, r2`. -/
theorem test_cto : after 0x00220103#32 [(2#5, 0xFFFF0007#32)] 1#5 = some 0x00100003#32 := by decide

/-- `popcnt.h r1, r2`. -/
theorem test_popcnt : after 0x00220300#32 [(2#5, 0xFFFF0101#32)] 1#5 = some 0x00100002#32 := by decide

/-- `rev.b r1, r2`. -/
theorem test_rev : after 0x00220281#32 [(2#5, 0x01800F12#32)] 1#5 = some 0x8001F048#32 := by decide

/-- `funpl.h r1, r2`. -/
theorem test_funpl : after 0x00222100#32 [(2#5, 0x3840B830#32)] 1#5 = some 0x40003800#32 := by decide

/-- `funph.h r1, r2`. -/
theorem test_funph : after 0x00222101#32 [(2#5, 0x3840B830#32)] 1#5 = some 0x3C00BC00#32 := by decide

/-- `ldea r1, [r2, r3*8]`. -/
theorem test_ldea :
    after 0x0022078F#32 [(2#5, 0x00001000#32), (3#5, 0xFFFFFFFF#32)] 1#5 = some 0x00000FF8#32 := by decide

/-- `and.nn r1, r2, r3`. -/
theorem test_and :
    after 0x00220790#32 [(2#5, 0xF0F0AAAA#32), (3#5, 0xFF00CCCC#32)] 1#5 = some 0x000F1111#32 := by decide

/-- `or r1, r2, r3`. -/
theorem test_or :
    after 0x00220611#32 [(2#5, 0xF0F0AAAA#32), (3#5, 0xFF00CCCC#32)] 1#5 = some 0xFFF0EEEE#32 := by decide

/-- `xor.nn r1, r2, r3`. -/
theorem test_xor :
    after 0x00220792#32 [(2#5, 0xF0F0AAAA#32), (3#5, 0xFF00CCCC#32)] 1#5 = some 0x0FF06666#32 := by decide

/-- `ebf.h r1, r2, r3`. -/
theorem test_ebf :
    after 0x00220713#32 [(2#5, 0x8000F00F#32), (3#5, 0x000C000C#32)] 1#5 = some 0xFFF8FFFF#32 := by decide

/-- `ebfu.h r1, r2, r3`. -/
theorem test_ebfu :
    after 0x00220714#32 [(2#5, 0x8000F00F#32), (3#5, 0x000C000C#32)] 1#5 = some 0x0008000F#32 := by decide

/-- `mkbf.b r1, r2, r3`. -/
theorem test_mkbf :
    after 0x00220695#32 [(2#5, 0xFFFFFFFF#32), (3#5, 0x24130201#32)] 1#5 = some 0x3008FCFE#32 := by decide

/-- `add.h r1, r2, r3`. -/
theorem test_add :
    after 0x00220716#32 [(2#5, 0xFFFF7FFF#32), (3#5, 0x00010001#32)] 1#5 = some 0x00008000#32 := by decide

/-- `sub.b r1, r3, r2`. -/
theorem test_sub :
    after 0x00220697#32 [(2#5, 0x01010101#32), (3#5, 0x00800001#32)] 1#5 = some 0xFF7FFF00#32 := by decide

/-- `min.b r1, r2, r3`. -/
theorem test_min :
    after 0x00220698#32 [(2#5, 0x80017FFF#32), (3#5, 0x7F020001#32)] 1#5 = some 0x800100FF#32 := by decide

/-- `max.h r1, r2, r3`. -/
theorem test_max :
    after 0x00220719#32 [(2#5, 0x8000FFFF#32), (3#5, 0x00010000#32)] 1#5 = some 0x00010000#32 := by decide

/-- `minu.b r1, r2, r3`. -/
theorem test_minu :
    after 0x0022069A#32 [(2#5, 0x80017FFF#32), (3#5, 0x7F020001#32)] 1#5 = some 0x7F010001#32 := by decide

/-- `maxu r1, r2, r3`. -/
theorem test_maxu :
    after 0x0022061B#32 [(2#5, 0x80000000#32), (3#5, 0x7FFFFFFF#32)] 1#5 = some 0x80000000#32 := by decide

/-- `seq.h r1, r2, r3`. -/
theorem test_seq :
    after 0x0022071C#32 [(2#5, 0x00010002#32), (3#5, 0x00010003#32)] 1#5 = some 0xFFFF0000#32 := by decide

/-- `sne.b r1, r2, r3`. -/
theorem test_sne :
    after 0x0022069D#32 [(2#5, 0x11223344#32), (3#5, 0x11FF33FF#32)] 1#5 = some 0x00FF00FF#32 := by decide

/-- `slt.b r1, r2, r3`. -/
theorem test_slt :
    after 0x0022069E#32 [(2#5, 0x807F00FF#32), (3#5, 0x7F800000#32)] 1#5 = some 0xFF0000FF#32 := by decide

/-- `sltu.b r1, r2, r3`. -/
theorem test_sltu :
    after 0x0022069F#32 [(2#5, 0x807F00FF#32), (3#5, 0x7F800000#32)] 1#5 = some 0x00FF0000#32 := by decide

/-- `sle.h r1, r2, r3`. -/
theorem test_sle :
    after 0x00220720#32 [(2#5, 0x8000FFFF#32), (3#5, 0x8000FFFE#32)] 1#5 = some 0xFFFF0000#32 := by decide

/-- `sleu r1, r2, r3`. -/
theorem test_sleu :
    after 0x00220621#32 [(2#5, 0x00000000#32), (3#5, 0x00000000#32)] 1#5 = some 0xFFFFFFFF#32 := by decide

/-- `shuf r1, r2, r3`. -/
theorem test_shuf :
    after 0x00220622#32 [(2#5, 0xAABBCCDD#32), (3#5, 0xFFFFE688#32)] 1#5 = some 0xAABBCCDD#32 := by decide

/-- `xchgsr r1, z, r3`. -/
theorem test_xchgsr : after 0x00200624#32 [(3#5, 0x00000010#32)] 1#5 = some 0x00000010#32 := by decide

/-- `mul.b r1, r2, r3`. -/
theorem test_mul :
    after 0x002206A7#32 [(2#5, 0x10FF0203#32), (3#5, 0x10020304#32)] 1#5 = some 0x00FE060C#32 := by decide

/-- `div.b r1, r2, r3`. -/
theorem test_div :
    after 0x002206A8#32 [(2#5, 0x80F90764#32), (3#5, 0xFF0202F9#32)] 1#5 = some 0x80FD03F2#32 := by decide

/-- `divu.h r1, r2, r3`. -/
theorem test_divu :
    after 0x00220729#32 [(2#5, 0xFFFF0064#32), (3#5, 0x00100007#32)] 1#5 = some 0x0FFF000E#32 := by decide

/-- `rem.b r1, r2, r3`. -/
theorem test_rem :
    after 0x002206AA#32 [(2#5, 0x80F90764#32), (3#5, 0xFF0202F9#32)] 1#5 = some 0x00FF0102#32 := by decide

/-- `remu r1, r2, r3`. -/
theorem test_remu :
    after 0x0022062B#32 [(2#5, 0xFFFFFFFF#32), (3#5, 0x00000010#32)] 1#5 = some 0x0000000F#32 := by decide

/-- `madd.h r1, r2, r3`. -/
theorem test_madd :
    after 0x0022072C#32 [(1#5, 0x00010001#32), (2#5, 0x00020003#32), (3#5, 0x00040005#32)] 1#5 = some 0x00090010#32 := by decide

/-- `sel.231 r1, r2, r3`. -/
theorem test_sel :
    after 0x002207AE#32 [(1#5, 0xFFFF0000#32), (2#5, 0x11112222#32), (3#5, 0x33334444#32)] 1#5 = some 0xFFFF0000#32 := by decide

/-- `ibf.h r1, r2, r3`. -/
theorem test_ibf :
    after 0x0022072F#32 [(1#5, 0xFFFF0000#32), (2#5, 0x00050005#32), (3#5, 0x04040404#32)] 1#5 = some 0xFF5F0050#32 := by decide

/-- `mulhi.b r1, r2, r3`. -/
theorem test_mulhi :
    after 0x002206B0#32 [(2#5, 0x807F80FF#32), (3#5, 0x807F7F02#32)] 1#5 = some 0x403FC0FF#32 := by decide

/-- `mulhiu.b r1, r2, r3`. -/
theorem test_mulhiu :
    after 0x002206B1#32 [(2#5, 0x807F80FF#32), (3#5, 0x807F7F02#32)] 1#5 = some 0x403F3F01#32 := by decide

/-- `mulq.b r1, r2, r3`. -/
theorem test_mulq :
    after 0x002206B2#32 [(2#5, 0x80407FFF#32), (3#5, 0x8040207F#32)] 1#5 = some 0x7F201FFF#32 := by decide

/-- `mulqr.h r1, r2, r3`. -/
theorem test_mulqr :
    after 0x00220733#32 [(2#5, 0x00017FFF#32), (3#5, 0x40007FFF#32)] 1#5 = some 0x00017FFE#32 := by decide

/-- `pack.b r1, r2, r3`. -/
theorem test_pack :
    after 0x002206BA#32 [(2#5, 0x12345678#32), (3#5, 0x9ABCDEF0#32)] 1#5 = some 0x2A4C6E80#32 := by decide

/-- `packs.h r1, r2, r3`. -/
theorem test_packs :
    after 0x0022073B#32 [(2#5, 0x0080FF7F#32), (3#5, 0x007FFF80#32)] 1#5 = some 0x7F7F8080#32 := by decide

/-- `packsu.b r1, r2, r3`. -/
theorem test_packsu :
    after 0x002206BC#32 [(2#5, 0x10F00FFF#32), (3#5, 0x0011807F#32)] 1#5 = some 0xF0FFFFFF#32 := by decide

/-- `packhi.h r1, r2, r3`. -/
theorem test_packhi :
    after 0x0022073D#32 [(2#5, 0x11223344#32), (3#5, 0x55667788#32)] 1#5 = some 0x11553377#32 := by decide

/-- `packhir.b r1, r2, r3`. -/
theorem test_packhir :
    after 0x002206BE#32 [(2#5, 0x18777FF8#32), (3#5, 0x08F717E8#32)] 1#5 = some 0x217F710F#32 := by decide

/-- `packhiur.h r1, r2, r3`. -/
theorem test_packhiur :
    after 0x0022073F#32 [(2#5, 0xFF800180#32), (3#5, 0xFF7F007F#32)] 1#5 = some 0xFFFF0200#32 := by decide

/-- `fmin.h r1, r2, r3`. -/
theorem test_fmin :
    after 0x00220740#32 [(2#5, 0x3C00BC00#32), (3#5, 0x40003800#32)] 1#5 = some 0x3C00BC00#32 := by decide

/-- `fmax.b r1, r2, r3`. -/
theorem test_fmax :
    after 0x002206C1#32 [(2#5, 0x3840B830#32), (3#5, 0x4038B0B8#32)] 1#5 = some 0x4040B030#32 := by decide

/-- `fseq.h r1, r2, r3`. -/
theorem test_fseq :
    after 0x00220742#32 [(2#5, 0x3C004000#32), (3#5, 0x3C004200#32)] 1#5 = some 0xFFFF0000#32 := by decide

/-- `fsne r1, r2, r3`. -/
theorem test_fsne :
    after 0x00220643#32 [(2#5, 0x3F800000#32), (3#5, 0x40000000#32)] 1#5 = some 0xFFFFFFFF#32 := by decide

/-- `fslt.b r1, r2, r3`. -/
theorem test_fslt :
    after 0x002206C4#32 [(2#5, 0x38B83040#32), (3#5, 0x4038303F#32)] 1#5 = some 0xFFFF0000#32 := by decide

/-- `fsle.h r1, r2, r3`. -/
theorem test_fsle :
    after 0x00220745#32 [(2#5, 0x40003C00#32), (3#5, 0x3C003C00#32)] 1#5 = some 0x0000FFFF#32 := by decide

/-- `fsunord.b r1, r2, r3`. -/
theorem test_fsunord :
    after 0x002206C6#32 [(2#5, 0x7C783838#32), (3#5, 0x38383879#32)] 1#5 = some 0xFF0000FF#32 := by decide

/-- `fsord r1, r2, r3`. -/
theorem test_fsord :
    after 0x00220647#32 [(2#5, 0x3F800000#32), (3#5, 0x7FC00000#32)] 1#5 = some 0x00000000#32 := by decide

/-- `itof.b r1, r2, z`. -/
theorem test_itof : after 0x002200C8#32 [(2#5, 0x01FF0204#32)] 1#5 = some 0x38B84048#32 := by decide

/-- `utof r1, r2, z`. -/
theorem test_utof : after 0x00220049#32 [(2#5, 0x80000000#32)] 1#5 = some 0x4F000000#32 := by decide

/-- `ftoi.h r1, r2, z`. -/
theorem test_ftoi : after 0x0022014A#32 [(2#5, 0xC1004100#32)] 1#5 = some 0xFFFE0002#32 := by decide

/-- `ftou r1, r2, z`. -/
theorem test_ftou : after 0x0022004B#32 [(2#5, 0x40200000#32)] 1#5 = some 0x00000002#32 := by decide

/-- `ftoir r1, r2, z`. -/
theorem test_ftoir : after 0x0022004C#32 [(2#5, 0x3FC00000#32)] 1#5 = some 0x00000002#32 := by decide

/-- `ftour.h r1, r2, z`. -/
theorem test_ftour : after 0x0022014D#32 [(2#5, 0x3E004100#32)] 1#5 = some 0x00020003#32 := by decide

/-- `fpack.h r1, r2, r3`. -/
theorem test_fpack :
    after 0x0022074E#32 [(2#5, 0x3C004000#32), (3#5, 0x4200B800#32)] 1#5 = some 0x384440B0#32 := by decide

/-- `fadd.h r1, r2, r3`. -/
theorem test_fadd :
    after 0x00220750#32 [(2#5, 0x3C004000#32), (3#5, 0x3C003800#32)] 1#5 = some 0x40004100#32 := by decide

/-- `fsub.h r1, r2, r3`. -/
theorem test_fsub :
    after 0x00220751#32 [(2#5, 0x42003C00#32), (3#5, 0x3C004000#32)] 1#5 = some 0x4000BC00#32 := by decide

/-- `fmul.h r1, r2, r3`. -/
theorem test_fmul :
    after 0x00220752#32 [(2#5, 0x42004000#32), (3#5, 0x4000BC00#32)] 1#5 = some 0x4600C000#32 := by decide

/-- `fdiv.h r1, r2, r3`. -/
theorem test_fdiv :
    after 0x00220753#32 [(2#5, 0x42003C00#32), (3#5, 0x40004000#32)] 1#5 = some 0x3E003800#32 := by decide

/-- `adds.h r1, r2, r3`. -/
theorem test_adds :
    after 0x00220760#32 [(2#5, 0x7FFF8000#32), (3#5, 0x0001FFFF#32)] 1#5 = some 0x7FFF8000#32 := by decide

/-- `addsu.b r1, r2, r3`. -/
theorem test_addsu :
    after 0x002206E1#32 [(2#5, 0xFF80017F#32), (3#5, 0x01800180#32)] 1#5 = some 0xFFFF02FF#32 := by decide

/-- `addh.b r1, r2, r3`. -/
theorem test_addh :
    after 0x002206E2#32 [(2#5, 0x7F80FF01#32), (3#5, 0x7F800002#32)] 1#5 = some 0x7F80FF01#32 := by decide

/-- `addhu.h r1, r2, r3`. -/
theorem test_addhu :
    after 0x00220763#32 [(2#5, 0xFFFF0001#32), (3#5, 0x00010002#32)] 1#5 = some 0x80000001#32 := by decide

/-- `addhr.b r1, r2, r3`. -/
theorem test_addhr :
    after 0x002206E4#32 [(2#5, 0x7F80FF01#32), (3#5, 0x7F800002#32)] 1#5 = some 0x7F800002#32 := by decide

/-- `addhur.h r1, r2, r3`. -/
theorem test_addhur :
    after 0x00220765#32 [(2#5, 0xFFFF0001#32), (3#5, 0x00000002#32)] 1#5 = some 0x80000002#32 := by decide

/-- `subs.h r1, r2, r3`. -/
theorem test_subs :
    after 0x00220766#32 [(2#5, 0x7FFF8000#32), (3#5, 0x80000001#32)] 1#5 = some 0x7FFF8000#32 := by decide

/-- `subsu.b r1, r2, r3`. -/
theorem test_subsu :
    after 0x002206E7#32 [(2#5, 0x02FE017F#32), (3#5, 0x01FF0080#32)] 1#5 = some 0x01000100#32 := by decide

/-- `subh.h r1, r2, r3`. -/
theorem test_subh :
    after 0x00220768#32 [(2#5, 0x7FFF0004#32), (3#5, 0x80000001#32)] 1#5 = some 0x7FFF0001#32 := by decide

/-- `subhu r1, r2, r3`. -/
theorem test_subhu :
    after 0x00220669#32 [(2#5, 0x00000000#32), (3#5, 0xFFFFFFFF#32)] 1#5 = some 0x80000000#32 := by decide

/-- `subhr.b r1, r2, r3`. -/
theorem test_subhr :
    after 0x002206EA#32 [(2#5, 0x7F800001#32), (3#5, 0x807F0100#32)] 1#5 = some 0x80810001#32 := by decide

/-- `subhur r1, r2, r3`. -/
theorem test_subhur :
    after 0x0022066B#32 [(2#5, 0xFFFFFFFF#32), (3#5, 0x00000000#32)] 1#5 = some 0x80000000#32 := by decide

/-- `ldea r1, [r2, #-16384]`. -/
theorem test_ldeaI : after 0x3C224000#32 [(2#5, 0x00001000#32)] 1#5 = some 0xFFFFD000#32 := by decide

/-- `and r1, r2, #0xFFF80000`. -/
theorem test_andI : after 0x40227FFE#32 [(2#5, 0x12345678#32)] 1#5 = some 0x12300000#32 := by decide

/-- `ebf r1, r2, #<0:1>`. -/
theorem test_ebfI : after 0x4C220100#32 [(2#5, 0x00000001#32)] 1#5 = some 0xFFFFFFFF#32 := by decide

/-- `add r1, r2, #0x7FF80000`. -/
theorem test_addI : after 0x58225FFE#32 [(2#5, 0x00000004#32)] 1#5 = some 0x7FF80004#32 := by decide

/-- `sub r1, #0, r2`. -/
theorem test_subI : after 0x5C220000#32 [(2#5, 0x80000000#32)] 1#5 = some 0x80000000#32 := by decide

/-- `seq r1, r2, #-1`. -/
theorem test_seqI : after 0x70223FFF#32 [(2#5, 0xFFFFFFFF#32)] 1#5 = some 0xFFFFFFFF#32 := by decide

/-- `shuf r1, r2, #0b1100100100000`. -/
theorem test_shufI : after 0x88221920#32 [(2#5, 0x1122337F#32)] 1#5 = some 0x0000007F#32 := by decide

/-- `xchgsr r1, z, #0`. -/
theorem test_xchgsrI : after 0x90200000#32 [] 1#5 = some 0x0000000F#32 := by decide

/-- `div r1, r2, #10`. -/
theorem test_divI : after 0xA022000A#32 [(2#5, 0xFFFFFF9D#32)] 1#5 = some 0xFFFFFFF7#32 := by decide

/-- `madd r1, r2, #-2`. -/
theorem test_maddI :
    after 0xB0223FFE#32 [(1#5, 0x00000005#32), (2#5, 0x00000003#32)] 1#5 = some 0xFFFFFFFF#32 := by decide

/-- `sel r1, r2, #0x7F`. -/
theorem test_selI :
    after 0xB822007F#32 [(1#5, 0x0000FFFF#32), (2#5, 0xAAAAAAAA#32)] 1#5 = some 0x0000AAAA#32 := by decide

/-- `ibf r1, r2, #<0:0>`. -/
theorem test_ibfI :
    after 0xBC220000#32 [(1#5, 0x11111111#32), (2#5, 0x22222222#32)] 1#5 = some 0x22222222#32 := by decide

/-- `ldi r1, #0x80000000`. -/
theorem test_ldi : after 0xD8380000#32 [] 1#5 = some 0x80000000#32 := by decide

/-! ### Loads and stores (section 2.1) -/

/-- `ldb r1, [r2, #7]`. -/
theorem test_ldbI : next 0x20220007#32 (m0 []) (·.reg 1#5) = some 0xFFFFFFFE#32 := by decide
/-- `ldub r1, [r2, #7]`. -/
theorem test_ldubI : next 0x30220007#32 (m0 []) (·.reg 1#5) = some 0x000000FE#32 := by decide
/-- `ldh r1, [r2, r3*2]`. -/
theorem test_ldh : next 0x00220689#32 (m0 [(3#5, 2#32)]) (·.reg 1#5) = some 0xFFFFBA98#32 := by decide
/-- `lduh r1, [r2, #6]`. -/
theorem test_lduhI : next 0x34220006#32 (m0 []) (·.reg 1#5) = some 0x0000FEDC#32 := by decide
/-- `ldw r1, [r2, r3*8]` with R3 = -1 and R2 = 0x2010. -/
theorem test_ldw_negative_index :
    next 0x0022078A#32 ((m0 [(3#5, 0xFFFFFFFF#32)]).setReg 2#5 0x2010#32) (·.reg 1#5) = some 0x80FF7F01#32 := by decide
/-- `ldub v1, [r2, r3]` with R3 = 3: a stride. -/
theorem test_ldub_stride :
    next 0x0022860C#32 (m0 [(3#5, 3#32), (31#5, 4#32)]) (fun t => [t.elem 1#5 0, t.elem 1#5 1, t.elem 1#5 2, t.elem 1#5 3]) =
      some [0x10#32, 0x76#32, 0xDC#32, 0x7F#32] := by decide
/-- `ldw v1, [r2, v2*4]`: a gather. -/
theorem test_ldw_gather :
    next 0x0022C50A#32 ((((m0 [(31#5, 3#32)]).setElem 2#5 0 3#32).setElem 2#5 2 1#32))
      (fun t => [t.elem 1#5 0, t.elem 1#5 1, t.elem 1#5 2]) = some [3#32, 0x76543210#32, 0xFEDCBA98#32] := by decide
/-- `stb r1, [r2, #1]`. -/
theorem test_stbI :
    next 0x10220001#32 (loaded [(1#5, 0xAABBCCDD#32), (2#5, 0x3000#32)]) (fun t => (t.byte 0x3001#32, t.byte 0x3002#32)) =
      some (0xDD#8, 0#8) := by decide
/-- `sth r1, [r2, #2]`. -/
theorem test_sthI :
    next 0x14220002#32 (loaded [(1#5, 0xAABBCCDD#32), (2#5, 0x3000#32)])
      (fun t => (t.byte 0x3002#32, t.byte 0x3003#32, t.byte 0x3004#32)) = some (0xDD#8, 0xCC#8, 0#8) := by decide
/-- `stw r1, [r2, r3*4]`: little-endian. -/
theorem test_stw :
    next 0x00220706#32 (loaded [(1#5, 0xAABBCCDD#32), (2#5, 0x3000#32), (3#5, 2#32)])
      (fun t => (t.byte 0x3008#32, t.byte 0x3009#32, t.byte 0x300A#32, t.byte 0x300B#32)) =
      some (0xDD#8, 0xCC#8, 0xBB#8, 0xAA#8) := by decide
/-- `stw v1, [r2, v2*4]`: elements 0 and 2 store to one word, the later wins (R52). -/
theorem test_stw_scatter :
    next 0x0022C506#32
      (((filled [(2#5, 0x3000#32), (31#5, 3#32)] 1#5 [0xAAAAAAAA#32, 0xBBBBBBBB#32, 0xCCCCCCCC#32]).setElem 2#5 0
        1#32).setElem 2#5 2 1#32) (fun t => (t.byte 0x3000#32, t.byte 0x3004#32)) = some (0xBB#8, 0xCC#8) := by decide
/-- `ldw r1, [r2, #2]`: misaligned. -/
theorem test_ldw_misaligned : faultOf 0x28220002#32 (m0 []) = some (.misalignedAccess 0x2002#32 4 State.reset) := by
  decide
/-- `ldw v1, [r2, #6]`: the fault of element 1 (section 2.1). -/
theorem test_ldw_vector_misaligned :
    faultOf 0x28228006#32 (m0 [(31#5, 3#32)]) = some (.misalignedAccess 0x2006#32 4 State.reset) := by decide
/-- `ldw v1, [r2, #4]` with VL = 17. -/
theorem test_ldw_length :
    faultOf 0x28228004#32 (m0 [(31#5, 17#32)]) = some (.vectorLengthFault 17#32 State.reset) := by decide
/-- `ldwpc r1, #0x1004` at pc = 0x1000: the word at 0x2004. -/
theorem test_ldwpc : next 0xC8200401#32 { m0 [] with pc := 0x1000#32 } (fun t => (t.reg 1#5, t.pc)) =
    some (0xFEDCBA98#32, 0x1004#32) := by decide
/-- `stwpc r1, #-8` at pc = 0x1008. -/
theorem test_stwpc :
    next 0xCC3FFFFE#32 { loaded [(1#5, 0x11223344#32)] with pc := 0x1008#32 }
      (fun t => (t.byte 0x1000#32, t.byte 0x1001#32, t.byte 0x1002#32, t.byte 0x1003#32)) =
      some (0x44#8, 0x33#8, 0x22#8, 0x11#8) := by decide

/-! ### Vector modes (sections 2.2, 2.3 and 2.6) -/

/-- `add/f v1, v1, v1` with VL = 2: folding. -/
theorem test_add_fold :
    next 0x00214216#32 (filled [(31#5, 2#32)] 1#5 [1#32, 2#32, 0x1E#32, 0x28#32])
      (fun t => [t.elem 1#5 0, t.elem 1#5 1, t.elem 1#5 2]) = some [0x1F#32, 0x2A#32, 0x1E#32] := by decide
/-- `sub v1, r3, v2`: the scalar operand is c. -/
theorem test_sub_vector :
    next 0x00228617#32 (filled [(3#5, 0x64#32), (31#5, 3#32)] 2#5 [1#32, 2#32, 3#32])
      (fun t => [t.elem 1#5 0, t.elem 1#5 1, t.elem 1#5 2, t.elem 1#5 3]) =
      some [0x63#32, 0x62#32, 0x61#32, 0#32] := by decide
/-- `fslt v1, v2, r3`. -/
theorem test_fslt_vector :
    next 0x00228644#32 (filled [(3#5, 0x40000000#32), (31#5, 3#32)] 2#5 [0x3F800000#32, 0x40000000#32, 0x40400000#32])
      (fun t => [t.elem 1#5 0, t.elem 1#5 1, t.elem 1#5 2]) = some [0xFFFFFFFF#32, 0#32, 0#32] := by decide
/-- `add/f v1, v2, v3` with VL = 9. -/
theorem test_add_fold_length : faultOf 0x00224616#32 (loaded [(31#5, 9#32)]) =
    some (.vectorLengthFault 9#32 State.reset) := by decide

/-! ### Branches and jumps (section 2.3) -/

/-- `bz r1, #0x2040` at pc = 0x2000. -/
theorem test_bz : next 0xDC200010#32 { loaded [] with pc := 0x2000#32 } (·.pc) = some 0x2040#32 := by decide
theorem test_bz_not : next 0xDC200010#32 { loaded [(1#5, 1#32)] with pc := 0x2000#32 } (·.pc) = some 0x2004#32 := by
  decide
theorem test_bnz : next 0xDC240010#32 { loaded [(1#5, 0x80000000#32)] with pc := 0x2000#32 } (·.pc) =
    some 0x2040#32 := by decide
theorem test_bs : next 0xDC280010#32 { loaded [(1#5, 0xFFFFFFFE#32)] with pc := 0x2000#32 } (·.pc) =
    some 0x2004#32 := by decide
theorem test_bns : next 0xDC2C0010#32 { loaded [(1#5, 0xFFFFFFFF#32)] with pc := 0x2000#32 } (·.pc) =
    some 0x2004#32 := by decide
theorem test_bltz : next 0xDC300010#32 { loaded [(1#5, 0x80000000#32)] with pc := 0x2000#32 } (·.pc) =
    some 0x2040#32 := by decide
theorem test_bgez : next 0xDC340010#32 { loaded [(1#5, 0xFFFFFFFF#32)] with pc := 0x2000#32 } (·.pc) =
    some 0x2004#32 := by decide
theorem test_blez : next 0xDC380010#32 { loaded [] with pc := 0x2000#32 } (·.pc) = some 0x2040#32 := by decide
theorem test_bgtz : next 0xDC3C0010#32 { loaded [(1#5, 0x80000000#32)] with pc := 0x2000#32 } (·.pc) =
    some 0x2004#32 := by decide
/-- `j pc, #0x3FFFFC` at pc = 0x400004. -/
theorem test_j_pc : next 0xC3EFFFFF#32 { loaded [(31#5, 8#32)] with pc := 0x400004#32 } (·.pc) = some 0x800000#32 := by
  decide
/-- `j r5, #8` with R5 = -4: wraps. -/
theorem test_j_wrap : next 0xC0A00002#32 (loaded [(5#5, 0xFFFFFFFC#32)]) (·.pc) = some 4#32 := by decide
/-- `jl r1, #4` at pc = 0x2000. -/
theorem test_jl : next 0xC4200001#32 { loaded [(1#5, 0x5000#32)] with pc := 0x2000#32 } (fun t => (t.reg 30#5, t.pc)) =
    some (0x2004#32, 0x5004#32) := by decide
/-- `jl lr, #0`: the base is read before LR is written (R207). -/
theorem test_jl_lr : next 0xC7C00000#32 { loaded [(30#5, 0x5000#32)] with pc := 0x2000#32 }
    (fun t => (t.reg 30#5, t.pc)) = some (0x2004#32, 0x5000#32) := by decide
/-- `addpc r1, #0x3FFFFC` at pc = 0xFFFFFFFC. -/
theorem test_addpc : next 0xD02FFFFF#32 { loaded [] with pc := 0xFFFFFFFC#32 } (fun t => (t.reg 1#5, t.pc)) =
    some (0x003FFFF8#32, 0#32) := by decide
/-- `addpchi r1, #0x800` at pc = 0x1234. -/
theorem test_addpchi : next 0xD4200001#32 { loaded [] with pc := 0x1234#32 } (·.reg 1#5) = some 0x1A34#32 := by decide

/-! ### System registers, standby, caches (sections 2.9, 2.10 and 2.12) -/

/-- `xchgsr r1, r1, r3` with R3 = 0x11. -/
theorem test_xchgsr_unknown : faultOf 0x00210624#32 (loaded [(1#5, 5#32), (3#5, 0x11#32)]) =
    some (.unknownSystemRegister 0x11#32 State.reset) := by decide
/-- `xchgsr z, r2, #0x10`. -/
theorem test_xchgsr_readonly : faultOf 0x90020010#32 (loaded [(2#5, 8#32)]) =
    some (.readOnlySystemRegister 0x10#32 State.reset) := by decide
/-- `wait`. -/
theorem test_wait : next 0x00004000#32 State.reset (fun t => (t.standby, t.pc)) = some (true, 4#32) := by decide
/-- After a store and a flush, SYNC alone does not make the byte fetchable (R329). -/
theorem test_sync : next 0x00004001#32 ((loaded []).memWrite 0#32 1 7#32) (fun t => (t.stage 0#32, t.byte 0#32)) =
    some (.stored, 7#8) := by decide
/-- `cctrl z, r2` with R2 = 0x201: stored bytes become flushed. -/
theorem test_cctrl_flush : next 0x00024002#32 ((loaded [(2#5, 0x201#32)]).memWrite 0x2000#32 1 7#32)
    (fun t => (t.stage 0x2000#32, t.stage 0x2001#32)) = some (.flushed, .clean) := by decide
/-- `cctrl r4, r3` with R3 = 0x101, R4 = 0x201F and a stored byte at 0x2000. -/
theorem test_cctrl_dirty : faultOf 0x00834002#32
    ((loaded [(3#5, 0x101#32), (4#5, 0x201F#32)]).memWrite 0x2000#32 1 7#32) =
    some (.dirtyDataInvalidate 0x201F#32 0x101#32 State.reset) := by decide
/-- CRC32C of one byte is one application of the open step function (R243, R244). -/
theorem test_crc32c : next 0x00224400#32 (loaded [(1#5, 0xFFFFFFFF#32), (2#5, 0xABCDEF61#32)]) (·.reg 1#5) =
    some (Config.crc32cStep 0xFFFFFFFF#32 0x61#8) := by rfl
/-- A zero divisor gives the open value and the machine goes on (R176, D9). -/
theorem test_div_zero : next 0x00220628#32 (loaded [(2#5, 5#32)]) (fun t => (t.reg 1#5, t.pc)) =
    some (Config.divZero .div 32 5#32 0#32, 4#32) := by rfl
/-- `add.b r1, r2, r3` without PM. -/
theorem test_no_pm : faultOf 0x00220696#32 (onImpl { resetImpl with hasPM := false } (loaded [])) =
    some (.illegalInstruction 0x00220696#32 State.reset) := by decide
/-- The order of R343: `shuf v1, v2, v3` with T = 01 and VL = 17. -/
theorem test_decode_before_length : faultOf 0x0022C6A2#32 (loaded [(31#5, 17#32)]) =
    some (.illegalInstruction 0x0022C6A2#32 State.reset) := by decide


/-! ### The hypotheses of the obligations are met

`test_witness_<Name>` shows a concrete state and operands that meet the hypotheses of Obligations.<Name>, at a
boundary of each range. -/

theorem loaded_inv (l : List (Reg × Word)) : (loaded l).Inv := by
  suffices h : ∀ s : State, s.Inv → (l.foldl (fun s p => s.setReg p.1 p.2) s).Inv from
    h _ ⟨by decide, by decide, by decide, by decide, by decide, by decide⟩
  induction l with
  | nil => exact fun s h => h
  | cons p l ih => exact fun s h => ih _ (inv_setReg h p.1 p.2)

theorem loaded_impl (l : List (Reg × Word)) : (loaded l).impl = resetImpl := by
  suffices h : ∀ s : State, (l.foldl (fun s p => s.setReg p.1 p.2) s).impl = s.impl from h _
  induction l with
  | nil => exact fun s => rfl
  | cons p l ih => exact fun s => ih _

theorem memWrite_inv (l : List (Reg × Word)) (a : Word) (n : Nat) (v : Word) : ((loaded l).memWrite a n v).Inv :=
  inv_memWrite (loaded_inv l) a n v

/-- Every module is implemented, and VL is 8: every mode of every type is ready, folding at its greatest VL. -/
theorem ready8 (v : VMode) (t : Packing) (need : List ArchModule) : Ready (loaded [(31#5, 8#32)]) v t need := by
  refine ⟨loaded_inv _, fun m _ => ?_, fun _ => by decide, fun _ => by decide, fun _ => by decide, fun _ => by decide⟩
  rw [loaded_impl]
  cases m <;> rfl

/-- VL is N: the greatest vector length of the other modes. -/
theorem ready16 (v : VMode) (t : Packing) (need : List ArchModule) (hv : v ≠ .fold) :
    Ready (loaded [(31#5, 16#32)]) v t need := by
  refine ⟨loaded_inv _, fun m _ => ?_, fun _ => by decide, fun _ => by decide, fun _ => by decide,
    fun h => absurd h hv⟩
  rw [loaded_impl]
  cases m <;> rfl

/-- VL is 0: no element. -/
theorem ready0 (v : VMode) (t : Packing) (need : List ArchModule) : Ready (loaded []) v t need := by
  refine ⟨loaded_inv _, fun m _ => ?_, fun _ => by decide, fun _ => by decide, fun _ => by decide, fun _ => by decide⟩
  rw [loaded_impl]
  cases m <;> rfl

theorem test_witness_AddMultiplyResults : Ready (loaded [(31#5, 8#32)]) .fold .byte [] ∧
    Ready (loaded [(31#5, 16#32)]) .vecVec .half [] ∧ Ready (loaded []) .scalar .word [] :=
  ⟨ready8 _ _ _, ready16 _ _ _ (by decide), ready0 _ _ _⟩
theorem test_witness_DivisionResults : Ready (loaded [(31#5, 8#32)]) .fold .byte [] ∧
    Ready (loaded [(31#5, 16#32)]) .vecVec .half [] ∧ Ready (loaded []) .scalar .word [] :=
  ⟨ready8 _ _ _, ready16 _ _ _ (by decide), ready0 _ _ _⟩
theorem test_witness_MinMaxResults : Ready (loaded [(31#5, 8#32)]) .fold .byte [] ∧
    Ready (loaded [(31#5, 16#32)]) .vecVec .half [] ∧ Ready (loaded []) .scalar .word [] :=
  ⟨ready8 _ _ _, ready16 _ _ _ (by decide), ready0 _ _ _⟩
theorem test_witness_ComparisonMasks : Ready (loaded [(31#5, 8#32)]) .fold .byte [] ∧
    Ready (loaded [(31#5, 16#32)]) .vecVec .half [] ∧ Ready (loaded []) .scalar .word [] :=
  ⟨ready8 _ _ _, ready16 _ _ _ (by decide), ready0 _ _ _⟩
theorem test_witness_BitFieldResults : Ready (loaded [(31#5, 8#32)]) .fold .byte [] ∧
    Ready (loaded [(31#5, 16#32)]) .vecVec .half [] ∧ Ready (loaded []) .scalar .word [] :=
  ⟨ready8 _ _ _, ready16 _ _ _ (by decide), ready0 _ _ _⟩
theorem test_witness_FloatArithmetic : Ready (loaded [(31#5, 8#32)]) .fold .byte [.fm] ∧
    Ready (loaded [(31#5, 16#32)]) .vecVec .half [.fm] ∧ Ready (loaded []) .scalar .word [.fm] :=
  ⟨ready8 _ _ _, ready16 _ _ _ (by decide), ready0 _ _ _⟩
theorem test_witness_FloatMinMax : Ready (loaded [(31#5, 8#32)]) .fold .byte [.fm] ∧
    Ready (loaded [(31#5, 16#32)]) .vecVec .half [.fm] ∧ Ready (loaded []) .scalar .word [.fm] :=
  ⟨ready8 _ _ _, ready16 _ _ _ (by decide), ready0 _ _ _⟩
theorem test_witness_FloatComparisonMasks : Ready (loaded [(31#5, 8#32)]) .fold .byte [.fm] ∧
    Ready (loaded [(31#5, 16#32)]) .vecVec .half [.fm] ∧ Ready (loaded []) .scalar .word [.fm] :=
  ⟨ready8 _ _ _, ready16 _ _ _ (by decide), ready0 _ _ _⟩
theorem test_witness_IntegerToFloat : Ready (loaded [(31#5, 8#32)]) .fold .byte [.fm] ∧
    Ready (loaded [(31#5, 16#32)]) .vecVec .half [.fm] ∧ Ready (loaded []) .scalar .word [.fm] :=
  ⟨ready8 _ _ _, ready16 _ _ _ (by decide), ready0 _ _ _⟩
theorem test_witness_FloatToInteger : Ready (loaded [(31#5, 8#32)]) .fold .byte [.fm] ∧
    Ready (loaded [(31#5, 16#32)]) .vecVec .half [.fm] ∧ Ready (loaded []) .scalar .word [.fm] :=
  ⟨ready8 _ _ _, ready16 _ _ _ (by decide), ready0 _ _ _⟩
theorem test_witness_PackResults : Ready (loaded [(31#5, 8#32)]) .fold .byte [.sm, .pm] ∧
    Ready (loaded [(31#5, 16#32)]) .vecVec .half [.sm, .pm] ∧ Ready (loaded []) .scalar .word [.sm, .pm] :=
  ⟨ready8 _ _ _, ready16 _ _ _ (by decide), ready0 _ _ _⟩
theorem test_witness_SaturatingResults : Ready (loaded [(31#5, 8#32)]) .fold .byte [.sm] ∧
    Ready (loaded [(31#5, 16#32)]) .vecVec .half [.sm] ∧ Ready (loaded []) .scalar .word [.sm] :=
  ⟨ready8 _ _ _, ready16 _ _ _ (by decide), ready0 _ _ _⟩
theorem test_witness_HalvingResults : Ready (loaded [(31#5, 8#32)]) .fold .byte [.sm] ∧
    Ready (loaded [(31#5, 16#32)]) .vecVec .half [.sm] ∧ Ready (loaded []) .scalar .word [.sm] :=
  ⟨ready8 _ _ _, ready16 _ _ _ (by decide), ready0 _ _ _⟩
theorem test_witness_CountingResults : Ready (loaded [(31#5, 8#32)]) .scalar .byte [] ∧
    Ready (loaded [(31#5, 16#32)]) .vecVec .half [] ∧ Ready (loaded []) .scalar .word [] :=
  ⟨ready8 _ _ _, ready16 _ _ _ (by decide), ready0 _ _ _⟩
theorem test_witness_ImmediateArithmetic : Ready (loaded []) VBit.scalar.mode .word [] ∧
    Ready (loaded [(31#5, 16#32)]) VBit.vector.mode .word [] := ⟨ready0 _ _ _, ready16 _ _ _ (by decide)⟩
theorem test_witness_LogicResults : Ready (loaded [(31#5, 8#32)]) .fold .word [] ∧
    Ready (loaded [(31#5, 16#32)]) VBit.vector.mode .word [] ∧ Ready (loaded []) .scalar .word [] :=
  ⟨ready8 _ _ _, ready16 _ _ _ (by decide), ready0 _ _ _⟩
theorem test_witness_SelectResults : Ready (loaded [(31#5, 8#32)]) .fold .word [] ∧
    Ready (loaded [(31#5, 16#32)]) VBit.vector.mode .word [] ∧ Ready (loaded []) .scalar .word [] :=
  ⟨ready8 _ _ _, ready16 _ _ _ (by decide), ready0 _ _ _⟩
theorem test_witness_ShuffleResults : Ready (loaded [(31#5, 8#32)]) .fold .word [] ∧
    Ready (loaded [(31#5, 16#32)]) VBit.vector.mode .word [] ∧ Ready (loaded []) .scalar .word [] :=
  ⟨ready8 _ _ _, ready16 _ _ _ (by decide), ready0 _ _ _⟩
theorem test_witness_ChecksumResults : Ready (loaded [(31#5, 8#32)]) .fold .word [] ∧
    Ready (loaded [(31#5, 16#32)]) VBit.vector.mode .word [] ∧ Ready (loaded []) .scalar .word [] :=
  ⟨ready8 _ _ _, ready16 _ _ _ (by decide), ready0 _ _ _⟩
theorem test_witness_FloatPackResults : Packing.half ≠ .byte ∧ Ready (loaded [(31#5, 8#32)]) .fold .half [.fm, .pm] ∧
    Ready (loaded [(31#5, 16#32)]) VBit.vector.mode .half [.fm, .pm] :=
  ⟨by decide, ready8 _ _ _, ready16 _ _ _ (by decide)⟩
theorem test_witness_LoadAddressResults : VMode.vecVec ≠ .fold ∧ Ready (loaded [(31#5, 16#32)]) .vecVec .word [] ∧
    Ready (loaded [(31#5, 16#32)]) VBit.vector.mode .word [] :=
  ⟨by decide, ready16 _ _ _ (by decide), ready16 _ _ _ (by decide)⟩

/-! Machine and encoding -/

theorem test_witness_MaxVectorLength : State.reset.Inv ∧ State.reset.impl.hasVM = true ∧
    ∃ t, step State.reset = .next t := ⟨loaded_inv [], by decide, ⟨_, rfl⟩⟩
theorem test_witness_SystemRegisterValues : ∃ t, step State.reset = .next t := ⟨_, rfl⟩
theorem test_witness_StepRunsDecoded : State.reset.halts = false ∧ State.reset.standby = false ∧
    State.reset.pc.toNat % 4 = 0 ∧ State.reset.isMapped State.reset.pc 4 .fetch = true ∧
    (∀ k < 4, State.reset.stage (State.reset.pc + BitVec.ofNat 32 k) = .clean) ∧
    decodeWord (wordAt State.reset State.reset.pc) = .ok (.clz .scalar .word 0#5 0#5) := by decide

/-- A map that refuses everything. -/
def unmapped : Impl := { resetImpl with mapped := [] }
/-- A map that takes in only addresses below 0x2004. -/
def lowMap : Impl :=
  { resetImpl with
    mapped := [{ base := 0, size := 0x2004, widths := [1, 2, 4], canFetch := true, canRead := true, canWrite := true }] }

theorem onImpl_inv {s : State} (h : s.Inv) (p : Impl) (he : p.elements = s.impl.elements) (hl : p.legal = true) :
    (onImpl p s).Inv :=
  { z := h.z, vz := by rw [show (onImpl p s).impl = p from rfl, he]; exact h.vz
    lengths := by rw [show (onImpl p s).impl = p from rfl, he]; exact h.lengths
    mem := h.mem, stages := h.stages, legal := hl }

/-- A misaligned pc; an unmapped pc; a stored byte at pc + 3; a reserved word at pc. -/
theorem test_witness_FetchFaultOrder :
    (let s : State := { State.reset with pc := 0xFFFFFFFF#32 }
     s.halts = false ∧ s.standby = false ∧ s.pc.toNat % 4 ≠ 0) ∧
    (let s := onImpl unmapped State.reset
     s.halts = false ∧ s.standby = false ∧ s.pc.toNat % 4 = 0 ∧ s.isMapped s.pc 4 .fetch = false) ∧
    (let s := State.reset.memWrite 3#32 1 1#32
     s.halts = false ∧ s.standby = false ∧ s.pc.toNat % 4 = 0 ∧ s.isMapped s.pc 4 .fetch = true ∧
       s.stage (s.pc + BitVec.ofNat 32 3) ≠ .clean) ∧
    (let s := State.reset.withFetchWord 32 0xE0000000
     s.halts = false ∧ s.standby = false ∧ s.pc.toNat % 4 = 0 ∧ s.isMapped s.pc 4 .fetch = true ∧
       (∀ k < 4, s.stage (s.pc + BitVec.ofNat 32 k) = .clean) ∧
       decodeWord (wordAt s s.pc) = .error .reservedPrefix) := by decide
theorem test_witness_ReservedPrefixWords : (0xE0000000#32).extractLsb' 29 3 = 0b111#3 ∧
    (0xDFFFFFFF#32).extractLsb' 29 3 ≠ 0b111#3 := by decide
theorem test_witness_DecodeOfEncode : (Instr.ldw .vecVec .x8 31#5 0#5 31#5).wellFormed = true ∧
    (Instr.ldwI .vector 31#5 0#5 0x7FFF#15).wellFormed = true := by decide
theorem test_witness_EncodeOfDecode : decodeWord 0xDFFFFFFF#32 = .ok (.bgtz 31#5 0x3FFFF#18) := by decide
theorem test_witness_PlacedInstructionRuns : (Instr.bgtz 31#5 0x3FFFF#18).wellFormed = true := by decide
theorem test_witness_ImmediateExpansions : (0x3FFF#15).getLsbD 14 = false ∧ (0x4000#15).getLsbD 14 = true ∧
    (0x0FFFFF#21).getLsbD 20 = false ∧ (0x100000#21).getLsbD 20 = true := by decide
theorem test_witness_WritesReadBack : 4 ≤ 4 ∧ Memory.wf State.reset.mem = true ∧
    Stages.wf State.reset.stages = true ∧ 4 ≤ (0x0FFC#32 - 0x1000#32 : Word).toNat ∧
    (0x1003#32 - 0x1000#32 : Word).toNat < 4 := by decide

/-! Floating point -/

theorem test_witness_FloatClasses : (∀ c ∈ resetImpl.f8Class, c.1 ≠ 0x78#8) ∧
    ({ resetImpl with f8Class := [(0x78#8, .finite), (0x7F#8, .nan)] } : Impl).f8Class =
      [(0x78#8, FpClass.finite)] ++ (0x7F#8, .nan) :: [] ∧ (∀ c ∈ [(0x78#8, FpClass.finite)], c.1 ≠ 0x7F#8) := by
  decide
theorem fpReal_one : fpReal 0x38#8 = 1 := by
  simp only [fpReal, fracBits, bias, show (0x38#8).msb = false from rfl]
  norm_num
theorem fpReal_two : fpReal 0x40#8 = 2 := by
  simp only [fpReal, fracBits, bias, show (0x40#8).msb = false from rfl]
  norm_num
/-- Two finite operands of nonzero sum, difference, product and quotient; the integer -1, whose pattern is a NaN's; the
finite nonzero halves that FPACK, FUNPL and FUNPH convert. -/
theorem test_witness_RoundingOfOneReal :
    Ready (loaded [(31#5, 8#32)]) .fold .byte [.fm] ∧ Ready (loaded [(31#5, 8#32)]) .fold .half [.fm, .pm] ∧
    Ready (loaded [(31#5, 16#32)]) VBit.vector.mode .half [.fm, .pm] ∧ Packing.half ≠ .byte ∧
    fpClass resetImpl 0x38#8 = .finite ∧ fpClass resetImpl 0x40#8 = .finite ∧
    fpReal 0x38#8 + fpReal 0x40#8 ≠ 0 ∧ fpReal 0x38#8 - fpReal 0x40#8 ≠ 0 ∧ fpReal 0x38#8 * fpReal 0x40#8 ≠ 0 ∧
    fpReal 0x40#8 ≠ 0 ∧ fpReal 0x38#8 / fpReal 0x40#8 ≠ 0 ∧
    ((0xFF#8).toInt ≠ 0 ∧ fpClass resetImpl 0xFF#8 = .nan) ∧ (0xFF#8).toNat ≠ 0 ∧
    (0x4038#16).extractLsb' 0 (16 / 2) = 0x38#8 ∧ (0x4038#16).extractLsb' (16 / 2) (16 / 2) = 0x40#8 := by
  refine ⟨ready8 _ _ _, ready8 _ _ _, ready16 _ _ _ (by decide), by decide, by decide, by decide, ?_, ?_, ?_, ?_, ?_,
    by decide, by decide, by decide, by decide⟩ <;> rw [fpReal_two] <;> try rw [fpReal_one]
  all_goals norm_num
/-- The clauses inside the floating-point statements: 1 + 1 is the encoding of 2; 1 - 1 = 0; 2 / 0 is not defined; an
infinity; a NaN; 1 < 2; the two zeros, equal reals with different encodings. -/
theorem test_witness_FloatArithmetic_clauses :
    (fpClass resetImpl 0x40#8 = .finite ∧ fpReal 0x40#8 = fpReal 0x38#8 + fpReal 0x38#8 ∧
      fpReal 0x38#8 + fpReal 0x38#8 ≠ 0) ∧ fpReal 0x38#8 - fpReal 0x38#8 = 0 ∧ ¬fpReal 0x00#8 ≠ 0 ∧
    fpClass resetImpl 0x78#8 = .inf ∧ fpIsNan resetImpl 0x7F#8 = true ∧
    extReal resetImpl 0x38#8 < extReal resetImpl 0x40#8 ∧
    (extReal resetImpl 0x00#8 = extReal resetImpl 0x80#8 ∧ 0x00#8 ≠ 0x80#8) := by
  have h0 : fpReal 0x00#8 = 0 := by
    simp only [fpReal, fracBits, bias, show (0x00#8).msb = false from rfl]
    norm_num
  have h1 : fpReal 0x80#8 = 0 := by
    simp only [fpReal, fracBits, bias, show (0x80#8).msb = true from rfl]
    norm_num
  have hf : ∀ x : BitVec 8, fpClass resetImpl x = .finite →
      extReal resetImpl x = (((fpReal x : ℚ) : WithTop ℚ) : WithBot (WithTop ℚ)) := fun x h => by
    simp [extReal, h]
  refine ⟨⟨by decide, ?_, ?_⟩, sub_self _, not_not.mpr h0, by decide, by decide, ?_, ?_, by decide⟩
  · rw [fpReal_one, fpReal_two]; norm_num
  · rw [fpReal_one]; norm_num
  · rw [hf _ (by decide), hf _ (by decide), fpReal_one, fpReal_two]
    exact WithBot.coe_lt_coe.mpr (WithTop.coe_lt_coe.mpr (by norm_num))
  · rw [hf _ (by decide), hf _ (by decide), h0, h1]

/-! Memory -/

theorem readyStride (t : Packing) (need : List ArchModule) :
    Ready (loaded [(3#5, 1#32), (31#5, 16#32)]) .vecScalar t need := by
  refine ⟨loaded_inv _, fun m _ => ?_, fun _ => by decide, fun _ => by decide, fun _ => by decide, fun h => by cases h⟩
  rw [loaded_impl]
  cases m <;> rfl
/-- Sixteen words from address 0; the last word of memory. -/
theorem test_witness_LoadResults :
    VMode.vecScalar ≠ .fold ∧ Ready (loaded [(3#5, 1#32), (31#5, 16#32)]) .vecScalar .word [] ∧
    Accessible (loaded [(3#5, 1#32), (31#5, 16#32)]) .vecScalar
      (fun i => effAddr .vecScalar 2#5 (.reg 3#5) (Scale.factor .x4) i
        (loaded [(3#5, 1#32), (31#5, 16#32)])) 4 .read ∧
    Ready (loaded []) VBit.scalar.mode .word [] ∧
    Accessible (loaded []) VBit.scalar.mode
      (fun i => effAddr VBit.scalar.mode 2#5 (.imm (immI15 0x7FFC#15)) 1 i (loaded [])) 4 .read :=
  ⟨by decide, readyStride _ _, by unfold Accessible; decide, ready0 _ _ _, by unfold Accessible; decide⟩
theorem test_witness_StoreResults :
    VMode.vecScalar ≠ .fold ∧ Ready (loaded [(3#5, 1#32), (31#5, 16#32)]) .vecScalar .word [] ∧
    Accessible (loaded [(3#5, 1#32), (31#5, 16#32)]) .vecScalar
      (fun i => effAddr .vecScalar 2#5 (.reg 3#5) (Scale.factor .x4) i
        (loaded [(3#5, 1#32), (31#5, 16#32)])) 4 .write ∧
    Ready (loaded []) VBit.scalar.mode .word [] ∧
    Accessible (loaded []) VBit.scalar.mode
      (fun i => effAddr VBit.scalar.mode 2#5 (.imm (immI15 0x7FFC#15)) 1 i (loaded [])) 4 .write :=
  ⟨by decide, readyStride _ _, by unfold Accessible; decide, ready0 _ _ _, by unfold Accessible; decide⟩

/-- R2 = 0x2000, VL = 3, a map that ends at 0x2004. -/
def edge : State := onImpl lowMap (loaded [(2#5, 0x2000#32), (3#5, 1#32), (31#5, 3#32)])

theorem edge_ready (v : VMode) (hv : v ≠ .fold) : Ready edge v .word [] :=
  ⟨onImpl_inv (loaded_inv _) _ (by decide) (by decide), fun m h => absurd h (List.not_mem_nil), fun _ => by decide,
    fun _ => by decide, fun _ => by decide, fun h => absurd h hv⟩

/-- Element 1 is the first outside the map; with a stride of 2 it is misaligned, as is the scalar access. -/
theorem test_witness_LoadFaults :
    (VMode.vecScalar ≠ .fold ∧ Ready edge .vecScalar .word [] ∧
      FirstBad edge .vecScalar (fun i => effAddr .vecScalar 2#5 (.reg 3#5) (Scale.factor .x4) i edge) 4 .read 1) ∧
    (VMode.scalar ≠ .fold ∧ Ready edge .scalar .word [] ∧
      FirstBad edge .scalar (fun i => effAddr .scalar 2#5 (.reg 3#5) (Scale.factor .x2) i edge) 4 .read 0) ∧
    (Ready edge VBit.vector.mode .word [] ∧
      FirstBad edge VBit.vector.mode (fun i => effAddr VBit.vector.mode 2#5 (.imm (immI15 2#15)) 1 i edge) 4 .read
        1) := by
  refine ⟨⟨by decide, edge_ready _ (by decide), ?_⟩, ⟨by decide, edge_ready _ (by decide), ?_⟩,
    ⟨edge_ready _ (by decide), ?_⟩⟩ <;> (unfold FirstBad; decide)
theorem test_witness_StoreFaults :
    (VMode.vecScalar ≠ .fold ∧ Ready edge .vecScalar .word [] ∧
      FirstBad edge .vecScalar (fun i => effAddr .vecScalar 2#5 (.reg 3#5) (Scale.factor .x4) i edge) 4 .write 1) ∧
    (VMode.scalar ≠ .fold ∧ Ready edge .scalar .word [] ∧
      FirstBad edge .scalar (fun i => effAddr .scalar 2#5 (.reg 3#5) (Scale.factor .x2) i edge) 4 .write 0) ∧
    (Ready edge VBit.vector.mode .word [] ∧
      FirstBad edge VBit.vector.mode (fun i => effAddr VBit.vector.mode 2#5 (.imm (immI15 2#15)) 1 i edge) 4 .write
        1) := by
  refine ⟨⟨by decide, edge_ready _ (by decide), ?_⟩, ⟨by decide, edge_ready _ (by decide), ?_⟩,
    ⟨edge_ready _ (by decide), ?_⟩⟩ <;> (unfold FirstBad; decide)

/-- Offset -4 from pc 0: the top word of memory, mapped after reset and unmapped in `edge`; a misaligned pc. -/
theorem test_witness_PcRelativeAccess :
    (State.reset.Inv ∧ 0xFFFFFFFC#32 = State.reset.pc + BitVec.ofInt 32 (4 * (0x1FFFFF#21).toInt) ∧
      (0xFFFFFFFC#32).toNat % 4 = 0 ∧ State.reset.isMapped 0xFFFFFFFC#32 4 .read = true ∧
      State.reset.isMapped 0xFFFFFFFC#32 4 .write = true) ∧
    (edge.Inv ∧ 0xFFFFFFFC#32 = edge.pc + BitVec.ofInt 32 (4 * (0x1FFFFF#21).toInt) ∧
      ¬((0xFFFFFFFC#32).toNat % 4 = 0 ∧ edge.isMapped 0xFFFFFFFC#32 4 .read = true) ∧
      ¬((0xFFFFFFFC#32).toNat % 4 = 0 ∧ edge.isMapped 0xFFFFFFFC#32 4 .write = true)) :=
  ⟨⟨loaded_inv [], by decide⟩, ⟨(edge_ready .scalar (by decide)).1, by decide⟩⟩
theorem test_witness_StoredCodeBecomesFetchable :
    (loaded [(2#5, 0x201#32)]).Inv ∧ (loaded [(2#5, 0x201#32)]).reg 2#5 = 0x201#32 ∧
      (loaded [(2#5, 0x201#32)]).reg 0#5 = 0#32 := ⟨loaded_inv _, by decide⟩

/-! Faults, modules, system registers, standby, caches -/

/-- VL = N + 1, for a load of format C; 2 VL = N + 2, for a folding PACK. -/
theorem test_witness_VectorLengthFaults :
    ((Instr.ldwI .vector 1#5 2#5 4#15).wellFormed = true ∧
      (∀ m ∈ (Instr.ldwI .vector 1#5 2#5 4#15).modules, (loaded [(31#5, 17#32)]).impl.has m = true) ∧
      vectorMode (.ldwI .vector 1#5 2#5 4#15) = .vecScalar ∧
      (loaded [(31#5, 17#32)]).impl.elements < (loaded [(31#5, 17#32)]).vl) ∧
    ((Instr.pack .fold .half 1#5 2#5 3#5).wellFormed = true ∧
      (∀ m ∈ (Instr.pack .fold .half 1#5 2#5 3#5).modules, (loaded [(31#5, 9#32)]).impl.has m = true) ∧
      vectorMode (.pack .fold .half 1#5 2#5 3#5) = .fold ∧
      (loaded [(31#5, 9#32)]).impl.elements < 2 * (loaded [(31#5, 9#32)]).vl) := by decide
theorem test_witness_ModuleRequirements :
    ((Instr.fadd .scalar .word 1#5 2#5 3#5).wellFormed = true ∧
      ArchModule.fm ∈ (Instr.fadd .scalar .word 1#5 2#5 3#5).modules ∧
      (onImpl { resetImpl with hasFM := false } State.reset).impl.has .fm = false) ∧
    (Instr.ldw .fold .x1 1#5 2#5 3#5).wellFormed = false := by decide
/-- One state or immediate for each clause. -/
theorem test_witness_SystemRegisterExchange :
    (loaded []).reg 3#5 = 0#32 ∧ (loaded [(3#5, 16#32)]).reg 3#5 = 16#32 ∧ immI15HL 0#15 = 0#32 ∧
    immI15HL 16#15 = 16#32 ∧ ¬((1#5 : Reg) = 0#5 ∧ (2#5 : Reg) = 0#5) ∧
    ((loaded [(3#5, 15#32)]).reg 3#5 ≠ 0#32 ∧ (loaded [(3#5, 15#32)]).reg 3#5 ≠ 16#32) ∧ (2#5 : Reg) ≠ 0#5 ∧
    immI15HL 15#15 ≠ 0#32 ∧ immI15HL 15#15 ≠ 16#32 := by decide
theorem test_witness_WaitAndStandby :
    (let s : State :=
      { State.reset with standby := true, host := { wakes := [true], wakesThen := none, halt := .never } }
     s.halts = false ∧ s.standby = true ∧ s.host.wakes = true :: []) ∧
    (let s : State :=
      { State.reset with standby := true, host := { wakes := [false], wakesThen := none, halt := .noWakeLeft } }
     s.halts = false ∧ s.standby = true ∧ s.host.wakes = false :: []) ∧
    (let s : State :=
      { State.reset with standby := true, host := { wakes := [], wakesThen := some 0, halt := .noWakeLeft } }
     s.halts = false ∧ s.standby = true ∧ s.host.wakes = [] ∧ s.host.wakesThen = some 0) ∧
    (let s : State := { State.reset with standby := true }
     s.halts = false ∧ s.standby = true ∧ s.host.wakes = [] ∧ s.host.wakesThen = none) := by decide
theorem test_witness_SyncResult : ((loaded []).memWrite 0#32 4 1#32).Inv := memWrite_inv _ _ _ _
/-- A stored byte in the line of the address, and one in the line after it. -/
theorem test_witness_CacheControlResult :
    (let s := (loaded [(3#5, 0x101#32), (4#5, 0x201F#32)]).memWrite 0x2000#32 1 7#32
     s.Inv ∧ s.reg 3#5 = 0x101#32 ∧ s.stage 0x2000#32 = .stored ∧
       (0x2000#32).toNat / s.impl.cacheLine = (s.reg 4#5).toNat / s.impl.cacheLine) ∧
    (let s := (loaded [(3#5, 0x101#32), (4#5, 0x201F#32)]).memWrite 0x2020#32 1 7#32
     s.Inv ∧ s.stage 0x2020#32 = .stored ∧
       (0x2020#32).toNat / s.impl.cacheLine ≠ (s.reg 4#5).toNat / s.impl.cacheLine) :=
  ⟨⟨memWrite_inv _ _ _ _, by decide⟩, ⟨memWrite_inv _ _ _ _, by decide⟩⟩

/-- A state with a Halt predicate. -/
def withHalt (p : HaltPred) (s : State) : State := { s with host := { s.host with halt := p } }
/-- A map that takes in words and no bytes, at one address (R47: Mapped is a predicate of the size too). -/
theorem test_mapped_by_width :
    (let s := onImpl { resetImpl with mapped := [{ base := 8, size := 1, widths := [4], canFetch := false, canRead := true,
                                                   canWrite := false }] } State.reset
     s.isMapped 8#32 4 .read = true ∧ s.isMapped 8#32 1 .read = false ∧ s.isMapped 8#32 4 .write = false ∧
       s.isMapped 12#32 4 .read = false) := by decide
/-- A halted machine takes no step, whatever is at pc. -/
theorem test_halt_refuses : step (withHalt (.pcIs 0#32) State.reset) =
    .refused (.halted (withHalt (.pcIs 0#32) State.reset)) := by rfl

/-! Whole-machine rules -/

theorem test_witness_StepKeepsInvariant : State.reset.Inv ∧ ∃ t, step State.reset = .next t :=
  ⟨loaded_inv [], ⟨_, rfl⟩⟩
theorem test_witness_OnlyBranchesMovePc : isControlFlow .sync = false ∧ ∃ t, exec .sync State.reset = .next t :=
  ⟨rfl, ⟨_, rfl⟩⟩
theorem test_witness_PcStaysAligned : State.reset.pc.toNat % 4 = 0 ∧ (∃ t, exec (.j 31#5 1#21) State.reset = .next t) ∧
    (∃ t, exec (.jl 1#5 1#21) State.reset = .next t) ∧ (∃ t, exec (.bz 1#5 0x3FFFF#18) State.reset = .next t) ∧
    ∃ t, step { State.reset with standby := true } = .next t :=
  ⟨rfl, ⟨_, rfl⟩, ⟨_, rfl⟩, ⟨_, rfl⟩, ⟨_, rfl⟩⟩
theorem test_witness_OnlyStoresChangeMemory : isStore (.ldi 1#5 1#21) = false ∧
    ∃ t, exec (.ldi 1#5 1#21) State.reset = .next t := ⟨rfl, ⟨_, rfl⟩⟩
theorem test_witness_RegistersKept : State.reset.Inv ∧ (∃ t, exec (.jl 1#5 1#21) State.reset = .next t) ∧
    (∀ d, destination (.jl 1#5 1#21) = some d → (29#5 : Reg) ≠ d) := ⟨loaded_inv [], ⟨_, rfl⟩, by decide⟩
theorem test_witness_OnlyWaitEntersStandby : (∃ t, exec .wait State.reset = .next t) ∧
    ∃ t, exec .sync State.reset = .next t := ⟨⟨_, rfl⟩, ⟨_, rfl⟩⟩
/-- One Halt for each clause, and one on a register, an element, a byte and a stage. -/
theorem test_witness_NoInstructionIsRefused :
    (withHalt (.pcIs 0#32) State.reset).halts = true ∧
    (withHalt (.both .inStandby .noWakeLeft) { State.reset with standby := true }).halts = true ∧
    (withHalt (.both .inStandby .noWakeLeft) State.reset).halts = false ∧
    (withHalt (.both (.both (.regIs 5#5 7#32) (.elemIs 1#5 2 0#32)) (.both (.byteIs 9#32 3#8) (.stageIs 9#32 .stored)))
      ((loaded [(5#5, 7#32)]).memWrite 9#32 1 3#32)).halts = true ∧
    (withHalt (.either (.not (.stageIs 0#32 .clean)) .never) State.reset).halts = false := by decide

end Sys2Proof.Tests
end

section
/-! What an instruction can do to the state, said once: `exec_eq_next` and `step_eq_next` invert a completed
instruction and a completed step, and the claims about every step are read off from them. -/

namespace Sys2Proof.Machine

/-! ### The updates an instruction is made of -/

/-- `Updated s u`: u comes from s by writes to registers and vector elements, stores to memory, and cache operations.
Only the move to the next instruction, and WAIT's entry into standby, are not among these. -/
inductive Updated (s : State) : State → Prop
  | refl : Updated s s
  | setReg {u : State} (h : Updated s u) (r : Reg) (w : Word) : Updated s (u.setReg r w)
  | setElem {u : State} (h : Updated s u) (r : Reg) (i : Nat) (w : Word) : Updated s (u.setElem r i w)
  | memWrite {u : State} (h : Updated s u) (a : Word) (n : Nat) (w : Word) : Updated s (u.memWrite a n w)
  | moveStage {u : State} (h : Updated s u) (r : CacheRange) (f g : Stage) (hg : g ≠ .clean) :
      Updated s (u.moveStage r f g)
  | syncStages {u : State} (h : Updated s u) : Updated s u.syncStages

namespace Updated

variable {s u : State}

theorem setA (h : Updated s u) (v : VMode) (a : Reg) (i : Nat) (w : Word) : Updated s (Machine.setA v a i w u) := by
  cases v
  case scalar => exact h.setReg a w
  all_goals exact h.setElem a i w

/-- No update touches the implementation parameters (R5, R26, R27). -/
theorem impl_eq (h : Updated s u) : u.impl = s.impl := by
  induction h with
  | refl => rfl
  | setReg _ r w ih | setElem _ r i w ih | memWrite _ a n w ih | moveStage _ r f g _ ih | syncStages _ ih => simp [ih]

/-- No update moves pc (R18). -/
theorem pc_eq (h : Updated s u) : u.pc = s.pc := by
  induction h with
  | refl => rfl
  | setReg _ r w ih | setElem _ r i w ih | memWrite _ a n w ih | moveStage _ r f g _ ih | syncStages _ ih => simp [ih]

/-- Every update keeps the invariant (R11, R20, R21, R40, R329). -/
theorem inv (h : Updated s u) (hs : s.Inv) : u.Inv := by
  induction h with
  | refl => exact hs
  | setReg _ r w ih => exact inv_setReg ih r w
  | setElem _ r i w ih => exact inv_setElem ih r i w
  | memWrite _ a n w ih => exact inv_memWrite ih a n w
  | moveStage _ r f g hg ih => exact inv_moveStage ih r f g hg
  | syncStages _ ih => exact inv_syncStages ih

end Updated

/-! ### The shared runs as updates -/

section Runs

variable {i : Instr} {v : VMode} {a b : Reg} {x : Third} {scale n : Nat} {s t : State}

theorem foldElems_updated {body : Nat → State → State} {m k : Nat}
    (hbody : ∀ j u, Updated s u → Updated s (body j u)) : Updated s (foldElems body m k s) :=
  foldElems_induct (fun _ u => Updated s u) .refl fun j u _ _ hu => hbody j u hu

theorem forElems_updated {body : Nat → State → Result} {m k : Nat}
    (hbody : ∀ j u u', Updated s u → body j u = .next u' → Updated s u') (h : forElems body m k s = .next t) :
    Updated s t :=
  forElems_induct (fun _ u => Updated s u) .refl (fun j u u' _ _ hu hn => hbody j u u' hu hn) h

/-- A register instruction that completes (R137). -/
theorem runElems_updated {f : Word → Word → Word → Word} (h : runElems i v a b x f s = .next t) :
    ∃ u, Updated s u ∧ t = u.advance := by
  obtain ⟨-, -, -, rfl⟩ := runElems_eq_next.1 h
  exact ⟨_, foldElems_updated fun j u hu => hu.setA v a j _, rfl⟩

/-- LDEA, completed (R158). -/
theorem runLdea_updated (h : runLdea i v a b x scale s = .next t) : ∃ u, Updated s u ∧ t = u.advance := by
  obtain ⟨-, -, h⟩ := gated_eq_next.1 h
  obtain ⟨-, h⟩ := vlChecked_eq_next.1 h
  cases h
  exact ⟨_, foldElems_updated fun j u hu => hu.setA v a j _, rfl⟩

/-- A load that completes (R151). -/
theorem runLoad_updated {ext : BitVec (8 * n) → Word} (h : runLoad i v a b x scale n ext s = .next t) :
    ∃ u, Updated s u ∧ t = u.advance := by
  obtain ⟨-, -, h⟩ := gated_eq_next.1 h
  obtain ⟨-, h⟩ := vlChecked_eq_next.1 h
  obtain ⟨u, hloop, h⟩ := andThen_eq_next.1 h
  cases h
  refine ⟨u, forElems_updated (fun j w w' hw hn => ?_) hloop, rfl⟩
  obtain ⟨-, -, hn⟩ := checkAccess_eq_next.1 hn
  cases hn
  exact hw.setA v a j _

/-- A store that completes (R152). -/
theorem runStore_updated (h : runStore i v a b x scale n s = .next t) : ∃ u, Updated s u ∧ t = u.advance := by
  obtain ⟨-, -, h⟩ := gated_eq_next.1 h
  obtain ⟨-, h⟩ := vlChecked_eq_next.1 h
  obtain ⟨u, hloop, h⟩ := andThen_eq_next.1 h
  cases h
  refine ⟨u, forElems_updated (fun j w w' hw hn => ?_) hloop, rfl⟩
  obtain ⟨-, -, hn⟩ := checkAccess_eq_next.1 hn
  cases hn
  exact hw.memWrite _ n _

/-- XCHGSR that completes has read a system register, or has done nothing (R325). -/
theorem runXchgsr_updated {m : Word} (h : runXchgsr i a b m s = .next t) : ∃ u, Updated s u ∧ t = u.advance := by
  obtain ⟨-, -, h⟩ := gated_eq_next.1 h
  split at h
  · cases h
    exact ⟨s, .refl, rfl⟩
  · split at h
    · cases h
    · split at h
      · cases h
        exact ⟨_, Updated.refl.setReg a _, rfl⟩
      · cases h

theorem invalidateData_eq_next {r : CacheRange} {p q : Word} (h : invalidateData r p q s = .next t) : t = s := by
  unfold invalidateData at h
  split at h <;> cases h
  rfl

/-- A cache operation that completes (R329). -/
theorem cacheOp_updated {p q : Word} (h : cacheOp p q s = .next t) : Updated s t := by
  have moved {r : CacheRange} {f g : Stage} (hg : g ≠ .clean)
      (h : Host.Outcome.next (s.moveStage r f g) = (.next t : Result)) : Updated s t := by
    cases h
    exact Updated.refl.moveStage r f g hg
  have same (h : t = s) : Updated s t := h ▸ .refl
  unfold cacheOp at h
  split_ifs at h
  · exact moved (by decide) h
  · exact same (invalidateData_eq_next h)
  · cases h; exact .refl
  · exact moved (by decide) h
  · exact same (invalidateData_eq_next h)
  · exact moved (by decide) h
  · exact moved (by decide) h
  · cases h; exact .refl

/-- CCTRL, completed (R329). -/
theorem execCctrl_updated (h : execCctrl a b s = .next t) : ∃ u, Updated s u ∧ t = u.advance := by
  obtain ⟨-, -, h⟩ := gated_eq_next.1 h
  obtain ⟨u, hop, h⟩ := andThen_eq_next.1 h
  cases h
  exact ⟨_, (cacheOp_updated hop).setReg a _, rfl⟩

/-- An instruction that only writes a register, completed (R164, R184, R185). -/
theorem gated_setReg_updated {w : Word} (h : gated i s (.next (s.setReg a w).advance) = .next t) :
    ∃ u, Updated s u ∧ t = u.advance := by
  obtain ⟨-, -, h⟩ := gated_eq_next.1 h
  cases h
  exact ⟨_, Updated.refl.setReg a w, rfl⟩

/-- LDWPC, completed (R162). -/
theorem execLdwpc_updated {im : BitVec 21} (h : execLdwpc a im s = .next t) : ∃ u, Updated s u ∧ t = u.advance := by
  obtain ⟨-, -, h⟩ := gated_eq_next.1 h
  obtain ⟨-, -, h⟩ := checkAccess_eq_next.1 h
  cases h
  exact ⟨_, Updated.refl.setReg a _, rfl⟩

/-- STWPC, completed (R163). -/
theorem execStwpc_updated {im : BitVec 21} (h : execStwpc a im s = .next t) : ∃ u, Updated s u ∧ t = u.advance := by
  obtain ⟨-, -, h⟩ := gated_eq_next.1 h
  obtain ⟨-, -, h⟩ := checkAccess_eq_next.1 h
  cases h
  exact ⟨_, Updated.refl.memWrite _ 4 _, rfl⟩

end Runs

/-! ### What a completed instruction can do -/

/-- `Finished i s u t`: how instruction i, begun in s, ends in t once its updates have led to u: at pc + 4 (R18), in
standby (R327), at a branch target (R197) or at a jump target (R206). -/
inductive Finished (i : Instr) (s u : State) : State → Prop
  | advance : Finished i s u u.advance
  | standby (hi : i = .wait) : Finished i s u { u.advance with standby := true }
  | branch (hi : isControlFlow i = true) (im : BitVec 18) : Finished i s u (u.jump (s.pc + immI18X4 im))
  | jump {a : Reg} {im : BitVec 21} (hi : i = .j a im ∨ i = .jl a im) :
      Finished i s u (u.jump (jumpBase a s + immI21X4 im))

/-- Inversion of a completed instruction: updates, then the move to the next instruction (R137). -/
theorem exec_eq_next {i : Instr} {s t : State} (h : exec i s = .next t) : ∃ u, Updated s u ∧ Finished i s u t := by
  have advanced (h : ∃ u, Updated s u ∧ t = u.advance) : ∃ u, Updated s u ∧ Finished i s u t := by
    obtain ⟨u, hu, rfl⟩ := h
    exact ⟨u, hu, .advance⟩
  have hshape := exec_shape i s
  unfold ExecShape at hshape
  obtain ⟨v, a, b, x, f, e, -⟩ | ⟨v, a, b, x, k, n, ext, e, -⟩ | ⟨v, a, b, x, k, e, -⟩ | ⟨v, a, b, x, k, n, -, e, -⟩ |
    ⟨im, c, e, hc⟩ | hrest := hshape
  · exact advanced (runElems_updated (e ▸ h))
  · exact advanced (runLoad_updated (e ▸ h))
  · exact advanced (runLdea_updated (e ▸ h))
  · exact advanced (runStore_updated (e ▸ h))
  · obtain ⟨-, -, ht⟩ := gated_eq_next.1 (e ▸ h)
    cases ht
    refine ⟨s, .refl, ?_⟩
    split
    · exact .branch hc im
    · exact .advance
  obtain ⟨a, b, c, rfl⟩ | ⟨a, b, im, rfl⟩ | ⟨a, b, rfl⟩ | rfl | rfl | ⟨a, im, rfl⟩ | ⟨a, im, rfl⟩ | ⟨a, im, rfl⟩ |
    ⟨a, im, rfl⟩ | ⟨a, im, rfl⟩ | ⟨a, im, rfl⟩ | ⟨a, im, rfl⟩ := hrest
  · exact advanced (runXchgsr_updated (show execXchgsr a b c s = _ from h))
  · exact advanced (runXchgsr_updated (show execXchgsrI a b im s = _ from h))
  · exact advanced (execCctrl_updated h)
  · obtain ⟨-, -, ht⟩ := gated_eq_next.1 (show execWait s = _ from h)
    cases ht
    exact ⟨s, .refl, .standby rfl⟩
  · obtain ⟨-, -, ht⟩ := gated_eq_next.1 (show execSync s = _ from h)
    cases ht
    exact ⟨_, Updated.refl.syncStages, .advance⟩
  · obtain ⟨-, -, ht⟩ := gated_eq_next.1 (show execJ a im s = _ from h)
    cases ht
    exact ⟨s, .refl, .jump (.inl rfl)⟩
  · obtain ⟨-, -, ht⟩ := gated_eq_next.1 (show execJl a im s = _ from h)
    cases ht
    exact ⟨_, Updated.refl.setReg _ _, .jump (.inr rfl)⟩
  · exact advanced (execLdwpc_updated h)
  · exact advanced (execStwpc_updated h)
  · exact advanced (gated_setReg_updated (show execAddpc a im s = _ from h))
  · exact advanced (gated_setReg_updated (show execAddpchi a im s = _ from h))
  · exact advanced (gated_setReg_updated (show execLdi a im s = _ from h))

namespace Finished

variable {i : Instr} {s u t : State}

theorem impl_eq (h : Finished i s u t) : t.impl = u.impl := by cases h <;> rfl

theorem inv (h : Finished i s u t) (hu : u.Inv) : t.Inv := by
  cases h with
  | advance => exact inv_advance hu
  | standby => exact inv_of_same hu rfl rfl rfl rfl rfl
  | branch _ im => exact inv_jump hu _
  | jump => exact inv_jump hu _

end Finished

/-- Every completed instruction keeps the invariant. -/
theorem exec_inv {i : Instr} {s t : State} (hs : s.Inv) (h : exec i s = .next t) : t.Inv := by
  obtain ⟨u, hu, ht⟩ := exec_eq_next h
  exact ht.inv (hu.inv hs)

/-- No instruction changes the implementation parameters (R5). -/
theorem exec_impl {i : Instr} {s t : State} (h : exec i s = .next t) : t.impl = s.impl := by
  obtain ⟨u, hu, ht⟩ := exec_eq_next h
  exact ht.impl_eq.trans hu.impl_eq

/-! ### What a completed step can do -/

/-- Inversion of a completed step: a moment of standby, or a decoded instruction (R137, R327). -/
theorem step_eq_next {s t : State} (h : step s = .next t) :
    (s.standby = true ∧ t = standbyMoment s) ∨ (s.standby = false ∧ ∃ i, exec i s = .next t) := by
  unfold step at h
  split at h
  · cases h
  split at h
  · next hsb => cases h; exact .inl ⟨hsb, rfl⟩
  next hsb =>
  split at h
  · unfold stepWord at h
    split at h
    · exact .inr ⟨by simpa using hsb, _, h⟩
    · cases h
  · cases h

theorem standbyMoment_impl (s : State) : (standbyMoment s).impl = s.impl := by
  obtain ⟨-, e⟩ | ⟨b, p, -, e⟩ := standbyMoment_cases s <;> rw [e]

theorem standbyMoment_pc (s : State) : (standbyMoment s).pc = s.pc := by
  obtain ⟨-, e⟩ | ⟨b, p, -, e⟩ := standbyMoment_cases s <;> rw [e]

/-- No step changes the implementation parameters (R5). -/
theorem step_impl {s t : State} (h : step s = .next t) : t.impl = s.impl := by
  obtain ⟨-, rfl⟩ | ⟨-, i, hi⟩ := step_eq_next h
  · exact standbyMoment_impl s
  · exact exec_impl hi

/-- No step changes a system register (R26, R27). -/
theorem step_sysReg {s t : State} (h : step s = .next t) (n : Word) : t.sysReg n = s.sysReg n := by
  unfold State.sysReg
  rw [step_impl h]

/-- Settles O54: every update an instruction is made of keeps the invariant, and so does a moment of standby. -/
theorem stepKeepsInvariant : Obligations.StepKeepsInvariant := by
  intro s t hs h
  obtain ⟨-, rfl⟩ | ⟨-, i, hi⟩ := step_eq_next h
  · exact inv_standbyMoment hs
  · exact exec_inv hs hi

end Sys2Proof.Machine
end

section
/-! The system registers (R24 to R28) and the vector length check (R22, R128, R137). -/

namespace Sys2Proof.Machine

open Claims

/-! ### The two system registers -/

/-- CPU_FEATURES_0 as the shifts and ors of R26. -/
theorem cpuFeatures_eq_shifts (p : Impl) :
    cpuFeatures p = (BitVec.ofNat 32 p.hasSM.toNat <<< 3) ||| (BitVec.ofNat 32 p.hasFM.toNat <<< 2) |||
      (BitVec.ofNat 32 p.hasPM.toNat <<< 1) ||| BitVec.ofNat 32 p.hasVM.toNat := by
  have bits : ∀ sm fm pm vm : Bool,
      0#28 ++ BitVec.ofBool sm ++ BitVec.ofBool fm ++ BitVec.ofBool pm ++ BitVec.ofBool vm =
        (BitVec.ofNat 32 sm.toNat <<< 3) ||| (BitVec.ofNat 32 fm.toNat <<< 2) |||
          (BitVec.ofNat 32 pm.toNat <<< 1) ||| BitVec.ofNat 32 vm.toNat := by decide
  exact bits p.hasSM p.hasFM p.hasPM p.hasVM

/-- MAX_VL is N with VM and 0 without (R27). -/
theorem maxVL_eq (p : Impl) : maxVL p = if p.hasVM = true then BitVec.ofNat 32 p.n else 0#32 := by
  unfold maxVL Impl.elements
  split <;> rfl

theorem sysReg_cpuFeatures (s : State) : s.sysReg 0x0000#32 = some (cpuFeatures s.impl) := rfl

theorem sysReg_maxVL (s : State) : s.sysReg 0x0010#32 = some (maxVL s.impl) := rfl

/-- What legal parameters say of N (R5, R20, R27). -/
theorem legal_n {p : Impl} (h : p.legal = true) (hvm : p.hasVM = true) :
    (∃ k, p.n = 2 ^ k) ∧ 16 ≤ p.n ∧ p.n < 4294967296 := by
  simp only [Impl.legal, hvm, isPowerOfTwo, Bool.not_true, Bool.false_or, Bool.and_eq_true, decide_eq_true_eq,
    beq_iff_eq] at h
  obtain ⟨⟨⟨⟨-, hpow⟩, h16⟩, hlt⟩, -⟩ := h
  exact ⟨⟨_, hpow.symm⟩, h16, hlt⟩

/-- MAX_VL as a number is the length of the vector registers: N fits in 32 bits (R27). -/
theorem maxVL_toNat {p : Impl} (h : p.legal = true) (hvm : p.hasVM = true) : (maxVL p).toNat = p.n := by
  obtain ⟨-, -, hlt⟩ := legal_n h hvm
  rw [maxVL_eq, if_pos hvm, BitVec.toNat_ofNat]
  exact Nat.mod_eq_of_lt hlt

/-- Settles O3: the value bit by bit, and that no step changes what it is computed from. -/
theorem systemRegisterValues : Obligations.SystemRegisterValues := by
  refine ⟨fun s => ?_, fun s t h => step_sysReg h _⟩
  rw [sysReg_cpuFeatures, cpuFeatures_eq_shifts]

/-- Settles O4: the invariant's legal parameters make N a power of two from 16 on that MAX_VL's 32 bits hold. -/
theorem maxVectorLength : Obligations.MaxVectorLength := by
  refine ⟨fun s => ?_, fun s hs hvm => ?_, fun s t h => step_sysReg h _⟩
  · rw [sysReg_maxVL, maxVL_eq]
  · obtain ⟨⟨k, hk⟩, h16, -⟩ := legal_n hs.legal hvm
    have hn := maxVL_toNat hs.legal hvm
    refine ⟨maxVL s.impl, k, sysReg_maxVL s, hn.trans hk, hn ▸ h16, fun r => ?_⟩
    rw [hn, hs.lengths r, Impl.elements, if_pos hvm]

/-! ### The vector length check -/

theorem available_of_has {i : Instr} {p : Impl} (h : ∀ m ∈ i.modules, p.has m = true) : i.available p = true :=
  List.all_eq_true.2 h

/-- The fault of a vector length beyond reach (R22, R128). -/
theorem vlChecked_fault {v : VMode} {s : State} (k : Result) (h : vlWithin v s = false) :
    vlChecked v s k = .fault (.vectorLengthFault (s.reg Reg.vl) s) := by
  simp [vlChecked, h]

/-- An instruction whose word has a vector mode checks the vector length by that mode, right after its availability and
before anything else (R22, R128, R137). -/
theorem exec_vlChecked (i : Instr) (s : State) :
    vectorMode i = .scalar ∨ ∃ k, exec i s = gated i s (vlChecked (vectorMode i) s k) := by
  cases i
  case wait | sync | cctrl | xchgsr | xchgsrI | j | jl | ldwpc | stwpc | addpc | addpchi | ldi | bz | bnz | bs | bns
      | bltz | bgez | blez | bgtz => exact .inl rfl
  all_goals exact .inr ⟨_, rfl⟩

/-- A vector length beyond the reach of the mode stops an available instruction before its first element. -/
theorem exec_vectorLengthFault {i : Instr} {s : State} (hw : i.wellFormed = true) (ha : i.available s.impl = true)
    (hv : vlWithin (vectorMode i) s = false) : exec i s = .fault (.vectorLengthFault (s.reg Reg.vl) s) := by
  obtain hsc | ⟨k, hk⟩ := exec_vlChecked i s
  · rw [hsc] at hv
    cases hv
  · rw [hk, gated_pass _ hw ha, vlChecked_fault k hv]

/-- Settles O47: in each mode the length named is out of that mode's reach. -/
theorem vectorLengthFaults : Obligations.VectorLengthFaults := by
  intro i s hw hm
  have ha := available_of_has hm
  refine ⟨fun hv hlt => exec_vectorLengthFault hw ha ?_, fun hv hlt => exec_vectorLengthFault hw ha ?_⟩
  · rw [Bool.eq_false_iff, Ne, vlWithin_iff]
    exact fun h => absurd (h.1 hv) (by omega)
  · rw [Bool.eq_false_iff, Ne, vlWithin_iff]
    exact fun h => absurd (h.2 hv) (by omega)

end Sys2Proof.Machine
end

section
/-! Where instructions leave pc, modulo 4 (R18, R197, R206). -/

namespace Sys2Proof.Machine

/-- Adding a multiple of 4 keeps an address's remainder modulo 4, also when it wraps (R6, R82, R83). -/
theorem toNat_add_append_mod_four (p : Word) (x : BitVec 30) : (p + (x ++ 0#2)).toNat % 4 = p.toNat % 4 := by
  have hx : (x ++ 0#2).toNat = x.toNat * 4 := by
    rw [BitVec.toNat_append]
    simp [Nat.shiftLeft_eq]
  rw [BitVec.toNat_add, hx]
  omega

theorem toNat_add_immI18X4_mod_four (p : Word) (im : BitVec 18) : (p + immI18X4 im).toNat % 4 = p.toNat % 4 :=
  toNat_add_append_mod_four p _

theorem toNat_add_immI21X4_mod_four (p : Word) (im : BitVec 21) : (p + immI21X4 im).toNat % 4 = p.toNat % 4 :=
  toNat_add_append_mod_four p _

theorem exec_j_pc {a : Reg} {im : BitVec 21} {s t : State} (h : exec (.j a im) s = .next t) :
    t.pc = jumpBase a s + immI21X4 im := by
  obtain ⟨-, -, ht⟩ := gated_eq_next.1 (show execJ a im s = _ from h)
  cases ht
  rfl

theorem exec_jl_pc {a : Reg} {im : BitVec 21} {s t : State} (h : exec (.jl a im) s = .next t) :
    t.pc = jumpBase a s + immI21X4 im := by
  obtain ⟨-, -, ht⟩ := gated_eq_next.1 (show execJl a im s = _ from h)
  cases ht
  rfl

/-- From an aligned pc, the base of a jump is aligned when it is pc itself or an aligned register (R16, R206). -/
theorem jumpBase_aligned_iff {a : Reg} {s : State} (hpc : s.pc.toNat % 4 = 0) :
    (jumpBase a s).toNat % 4 = 0 ↔ a = Reg.vl ∨ (s.reg a).toNat % 4 = 0 := by
  unfold jumpBase
  split
  · next ha => simp [ha, hpc]
  · next ha => simp [ha]

/-- An instruction other than J and JL moves pc by a multiple of 4 (R18, R197). -/
theorem exec_pc_mod_four {i : Instr} {s t : State} (hj : ∀ a im, i ≠ .j a im) (hjl : ∀ a im, i ≠ .jl a im)
    (h : exec i s = .next t) : t.pc.toNat % 4 = s.pc.toNat % 4 := by
  obtain ⟨u, hu, ht⟩ := exec_eq_next h
  have hadv : u.advance.pc.toNat % 4 = s.pc.toNat % 4 := by
    rw [advance_pc, hu.pc_eq]
    exact toNat_add_append_mod_four s.pc 1#30
  cases ht with
  | advance => exact hadv
  | standby => exact hadv
  | branch _ im => exact toNat_add_immI18X4_mod_four s.pc im
  | jump hi => exact (hi.elim (hj _ _) (hjl _ _)).elim

/-- Settles O56: J and JL by the base of the jump, everything else by the distance pc moves. -/
theorem pcStaysAligned : Obligations.PcStaysAligned := by
  refine ⟨fun i s t hpc h => ?_, fun s t hsb h => ?_⟩
  · split
    · rw [exec_j_pc h, toNat_add_immI21X4_mod_four]
      exact jumpBase_aligned_iff hpc
    · rw [exec_jl_pc h, toNat_add_immI21X4_mod_four]
      exact jumpBase_aligned_iff hpc
    · next hj hjl => exact (exec_pc_mod_four hj hjl h).trans hpc
  · obtain ⟨-, rfl⟩ | ⟨hrun, -⟩ := step_eq_next h
    · exact standbyMoment_pc s
    · rw [hsb] at hrun
      cases hrun

end Sys2Proof.Machine
end

section
/-! The state after reset (R33, R360), and the vector zero register (R21). -/

namespace Sys2Proof.Machine

theorem resetImpl_legal : resetImpl.legal = true := by decide

/-- Settles O1. -/
theorem resetWellFormed : Obligations.ResetWellFormed where
  z := by simp [State.reset]
  vz := rfl
  lengths k := by simp [State.reset, resetImpl, Impl.elements]
  mem := rfl
  stages := rfl
  legal := resetImpl_legal

/-- Settles O2: Z and VZ read 0 in every state, and nothing is listed in the stages at reset. -/
theorem resetFixedValues : Obligations.ResetFixedValues :=
  ⟨reg_z _, elem_z _, rfl, fun _ => rfl, by decide, by decide⟩

theorem setElem_vz (s : State) (i : Nat) (v : Word) : s.setElem Reg.z i v = s := rfl

/-- Settles O5. -/
theorem vectorZeroRegister : Obligations.VectorZeroRegister :=
  ⟨elem_z, setElem_vz⟩

end Sys2Proof.Machine
end

section
/-! What MemWrite stores, MemRead reads (R41, R42), and the multi-byte values of memory as bytes side by side. -/

namespace Sys2Proof.Machine

open Claims

/-! ### MemRead from the bytes it covers -/

/-- The number at an address is pinned down by its bytes, byte k being bits 8k to 8k + 7 (R41). -/
theorem bytesNat_eq_mod {t : State} {a v : Word} {n : Nat}
    (h : ∀ k < n, t.byte (a + BitVec.ofNat 32 k) = v.extractLsb' (8 * k) 8) :
    t.bytesNat a n = v.toNat % 2 ^ (8 * n) := by
  induction n generalizing a v with
  | zero => simp [State.bytesNat, Nat.mod_one]
  | succ n ih =>
    have hlow : (t.byte a).toNat = v.toNat % 256 := by
      have h0 := h 0 (Nat.zero_lt_succ n)
      rw [BitVec.add_zero] at h0
      simp [h0]
    have hrest : t.bytesNat (a + 1#32) n = (v >>> 8).toNat % 2 ^ (8 * n) := by
      refine ih fun k hk => ?_
      have hk1 : a + 1#32 + BitVec.ofNat 32 k = a + BitVec.ofNat 32 (k + 1) := by
        rw [BitVec.add_assoc, ← BitVec.ofNat_add, Nat.add_comm]
      rw [hk1, h (k + 1) (by omega)]
      ext j hj
      simp [Nat.mul_succ, Nat.add_comm, Nat.add_left_comm]
    calc t.bytesNat a (n + 1) = v.toNat % 256 + 256 * (v.toNat / 256 % 2 ^ (8 * n)) := by
          rw [State.bytesNat, hlow, hrest, BitVec.toNat_ushiftRight, Nat.shiftRight_eq_div_pow]
      _ = v.toNat % 2 ^ (8 * (n + 1)) := by
          rw [← Nat.mod_mul, Nat.mul_succ, Nat.pow_add, Nat.mul_comm]

/-- MemRead gives the low 8n bits of any word whose bytes are the n bytes read (R41). -/
theorem memRead_of_bytes {t : State} {a v : Word} {n : Nat}
    (h : ∀ k < n, t.byte (a + BitVec.ofNat 32 k) = v.extractLsb' (8 * k) 8) :
    t.memRead a n = v.setWidth (8 * n) := by
  apply BitVec.eq_of_toNat_eq
  rw [State.memRead, bytesNat_eq_mod h, BitVec.toNat_ofNat, BitVec.toNat_setWidth, Nat.mod_mod]

/-- How far byte k of an access is from the address, for an access of at most four bytes. -/
theorem toNat_offset (a : Word) {n k : Nat} (hn : n ≤ 4) (hk : k < n) : (a + BitVec.ofNat 32 k - a).toNat = k := by
  rw [add_sub_cancel_left, BitVec.toNat_ofNat]
  omega

/-- MemRead after MemWrite at the same address (R41, R42). -/
theorem memRead_memWrite {s : State} (h : Memory.wf s.mem = true) (a v : Word) {n : Nat} (hn : n ≤ 4) :
    (s.memWrite a n v).memRead a n = v.setWidth (8 * n) :=
  memRead_of_bytes fun k hk => by
    rw [memWrite_byte s a n v h hn, toNat_offset a hn hk, if_pos hk]

/-- Settles O15, from what one store does to every byte and every stage. -/
theorem writesReadBack : Obligations.WritesReadBack := by
  intro s a v n hn hm hs
  refine ⟨memRead_memWrite hm a v hn, fun x hx => ⟨?_, ?_⟩, fun x hx => ?_, memWrite_mem_wf s a n v hm⟩
  · rw [memWrite_byte s a n v hm hn, if_neg (by omega)]
  · rw [memWrite_stage s a n v hs hn, if_neg (by omega)]
  · rw [memWrite_stage s a n v hs hn, if_pos hx]

/-! ### MemRead of one, two and four bytes -/

/-- Byte k of the word at an address is the byte k addresses on (R41). -/
theorem extractLsb'_wordAt (s : State) (x : Word) {k : Nat} (hk : k < 4) :
    (wordAt s x).extractLsb' (8 * k) 8 = s.byte (x + BitVec.ofNat 32 k) := by
  unfold wordAt
  match k with
  | 0 => simpa using BitVec.extractLsb'_append_eq_right
  | 1 =>
    rw [BitVec.extractLsb'_append_eq_of_le (by decide)]
    exact BitVec.extractLsb'_append_eq_right
  | 2 =>
    rw [BitVec.extractLsb'_append_eq_of_le (by decide), BitVec.extractLsb'_append_eq_of_le (by decide)]
    exact BitVec.extractLsb'_append_eq_right
  | 3 =>
    rw [BitVec.extractLsb'_append_eq_of_le (by decide), BitVec.extractLsb'_append_eq_of_le (by decide)]
    exact BitVec.extractLsb'_append_eq_left

theorem memRead_eq_wordAt (s : State) (x : Word) {n : Nat} (hn : n ≤ 4) :
    s.memRead x n = (wordAt s x).setWidth (8 * n) :=
  memRead_of_bytes fun _ hk => (extractLsb'_wordAt s x (by omega)).symm

theorem memRead_one (s : State) (x : Word) : s.memRead x 1 = s.byte x := by
  rw [memRead_eq_wordAt s x (by decide), wordAt, BitVec.setWidth_append]
  exact BitVec.setWidth_eq _

theorem memRead_two (s : State) (x : Word) : s.memRead x 2 = halfAt s x := by
  rw [memRead_eq_wordAt s x (by decide), wordAt, halfAt]
  have hhigh : (s.byte (x + 3#32) ++ s.byte (x + 2#32) ++ s.byte (x + 1#32)).setWidth 8 = s.byte (x + 1#32) := by
    rw [BitVec.setWidth_append]
    exact BitVec.setWidth_eq _
  exact (BitVec.setWidth_append_of_eq rfl).trans (by rw [hhigh, BitVec.setWidth_eq])

theorem memRead_four (s : State) (x : Word) : s.memRead x 4 = wordAt s x := by
  rw [memRead_eq_wordAt s x (by decide)]
  exact BitVec.setWidth_eq _

end Sys2Proof.Machine
end

section
/-! The fetch and its faults in their order (R44, R46, R47, R56, R343). -/

namespace Sys2Proof.Machine

open Claims

variable {s : State}

/-! ### What a fetch answers -/

theorem fetchWord_misaligned (h : s.pc.toNat % 4 ≠ 0) : fetchWord s = .error (.misalignedFetch s.pc s) := by
  simp [fetchWord, h]

theorem fetchWord_unmapped (ha : s.pc.toNat % 4 = 0) (hm : s.isMapped s.pc 4 .fetch = false) :
    fetchWord s = .error (.accessFault s.pc .fetch s) := by
  simp [fetchWord, ha, hm]

/-- The staleness check of the fetch, said of the four bytes (R56). -/
theorem fetchable_iff :
    ((List.range 4).all fun k => s.stage (s.pc + BitVec.ofNat 32 k) = .clean) = true ↔
      ∀ k < 4, s.stage (s.pc + BitVec.ofNat 32 k) = .clean := by
  simp only [List.all_eq_true, List.mem_range, decide_eq_true_eq]

theorem fetchWord_stale (ha : s.pc.toNat % 4 = 0) (hm : s.isMapped s.pc 4 .fetch = true)
    (hc : ∃ k < 4, s.stage (s.pc + BitVec.ofNat 32 k) ≠ .clean) :
    fetchWord s = .error (.staleInstructionFetch s.pc s) := by
  have hstale : ¬((List.range 4).all fun k => s.stage (s.pc + BitVec.ofNat 32 k) = .clean) = true := by
    rw [fetchable_iff]
    push Not
    exact hc
  rw [fetchWord, if_neg (by simp [ha]), if_neg (by simp [hm]), if_neg hstale]

/-- A fetch that passes its checks gives the word at pc (R44). -/
theorem fetchWord_ok (ha : s.pc.toNat % 4 = 0) (hm : s.isMapped s.pc 4 .fetch = true)
    (hc : ∀ k < 4, s.stage (s.pc + BitVec.ofNat 32 k) = .clean) : fetchWord s = .ok (wordAt s s.pc) := by
  rw [fetchWord, if_neg (by simp [ha]), if_neg (by simp [hm]), if_pos (fetchable_iff.2 hc)]
  rfl

/-! ### What the step makes of it -/

theorem step_of_fetch_error {f : Fault} (hh : s.halts = false) (hsb : s.standby = false)
    (hf : fetchWord s = .error f) : step s = .fault f := by
  simp [step, hh, hsb, hf]

theorem step_of_fetch_ok {iw : Word} (hh : s.halts = false) (hsb : s.standby = false)
    (hf : fetchWord s = .ok iw) : step s = stepWord iw s := by
  simp [step, hh, hsb, hf]

theorem stepWord_of_error {iw : Word} {e : DecodeError} (he : decodeWord iw = .error e) :
    stepWord iw s = .fault (.illegalInstruction iw s) := by
  simp [stepWord, he]

/-- Settles O9: the checks of the fetch in turn, and last the decoder's. -/
theorem fetchFaultOrder : Obligations.FetchFaultOrder := by
  intro s hh hsb
  refine ⟨fun ha => ?_, fun ha hm => ?_, fun ha hm hc => ?_, fun ha hm hc e he => ?_⟩
  · exact step_of_fetch_error hh hsb (fetchWord_misaligned ha)
  · exact step_of_fetch_error hh hsb (fetchWord_unmapped ha hm)
  · exact step_of_fetch_error hh hsb (fetchWord_stale ha hm hc)
  · rw [step_of_fetch_ok hh hsb (fetchWord_ok ha hm hc), stepWord_of_error he]

end Sys2Proof.Machine
end

section
/-! Loads and stores that stop at their first bad element, with the elements below it done (R45, R47, R138, R343,
R344). -/

namespace Sys2Proof.Machine

open Claims

/-! ### A loop that stops -/

/-- A loop whose bodies give a next state up to one element, and that element's body a fault, stops with that fault in
the state the elements below have left (R138). -/
theorem forElems_stops {body : Nat → State → Result} {fault : State → Fault} (P : Nat → State → Prop)
    {n i m : Nat} {s : State} (h0 : P i s) (him : i ≤ m) (hmn : m < i + n)
    (hstep : ∀ k u, i ≤ k → k < m → P k u → ∃ u', body k u = .next u' ∧ P (k + 1) u')
    (hbad : ∀ u, P m u → body m u = .fault (fault u)) :
    ∃ u, forElems body n i s = .fault (fault u) ∧ P m u := by
  induction n generalizing i s with
  | zero => omega
  | succ n ih =>
    obtain rfl | hlt := Nat.eq_or_lt_of_le him
    · exact ⟨s, by rw [forElems, hbad s h0, andThen_fault], h0⟩
    · obtain ⟨s', hnext, hP⟩ := hstep i s (le_refl i) hlt h0
      obtain ⟨u, hu, hPu⟩ := ih hP hlt (by omega) fun k u hk => hstep k u (by omega)
      exact ⟨u, by rw [forElems, hnext, andThen_next, hu], hPu⟩

/-! ### The checks of one access -/

/-- The checks of a data access that does not pass them, alignment before mapping (R45, R47, R343). -/
theorem checkAccess_fault {s : State} {x : Word} {n : Nat} {kind : AccessKind} (k : Result)
    (h : ¬(x.toNat % n = 0 ∧ s.isMapped x n kind = true)) :
    checkAccess s x n kind k = .fault (badAccess s x n kind) := by
  unfold checkAccess badAccess
  split
  · rfl
  · next hal => rw [if_neg fun hm => h ⟨not_not.1 hal, hm⟩]

theorem isMapped_congr {s t : State} (h : t.impl = s.impl) (x : Word) (n : Nat) (kind : AccessKind) :
    t.isMapped x n kind = s.isMapped x n kind := by
  rw [State.isMapped, h, State.isMapped]

theorem byte_congr {s t : State} (h : t.mem = s.mem) (x : Word) : t.byte x = s.byte x := by
  rw [State.byte, h, State.byte]

theorem stage_congr {s t : State} (h : t.stages = s.stages) (x : Word) : t.stage x = s.stage x := by
  rw [State.stage, h, State.stage]

theorem memRead_congr {s t : State} (h : t.mem = s.mem) (x : Word) (n : Nat) : t.memRead x n = s.memRead x n := by
  have hbytes : ∀ x, t.bytesNat x n = s.bytesNat x n := by
    induction n with
    | zero => exact fun _ => rfl
    | succ n ih => intro x; rw [State.bytesNat, ih, byte_congr h, State.bytesNat]
  rw [State.memRead, hbytes, State.memRead]

/-! ### The elements of a mode -/

theorem elemCount_eq_count (v : VMode) (s : State) : elemCount v s = count v s := by
  cases v <;> rfl

theorem opA_eq_srcA (v : VMode) (a : Reg) (i : Nat) (s : State) : opA v a i s = srcA v a s i := by
  cases v <;> rfl

/-- A scalar operation has element 0 only (R125). -/
theorem eq_zero_of_lt_count {v : VMode} {s : State} {k : Nat} (hk : k < count v s) (hv : v = .scalar) : k = 0 := by
  rw [count, if_pos hv] at hk
  omega

/-- An element of a vector operation is within the vector registers (R22). -/
theorem lt_elements_of_lt_count {v : VMode} {s : State} {k : Nat} (hvl : vlWithin v s = true) (hk : k < count v s)
    (hv : v ≠ .scalar) : k < s.impl.elements := by
  have hle := vl_le_elements hvl hv
  rw [count, if_neg hv] at hk
  omega

/-! ### What a ready state passes -/

theorem inv_of_ready {s : State} {v : VMode} {t : Packing} {need : List ArchModule} (hr : Ready s v t need) : s.Inv :=
  hr.1

theorem vlWithin_of_ready {s : State} {v : VMode} {t : Packing} {need : List ArchModule} (hr : Ready s v t need) :
    vlWithin v s = true := by
  obtain ⟨-, -, -, -, hvl, hfold⟩ := hr
  exact vlWithin_iff.2 ⟨hvl, hfold⟩

/-- An instruction that needs only the modules named, its mode's and its type's is available (R133). -/
theorem available_of_ready {i : Instr} {s : State} {v : VMode} {t : Packing} {need : List ArchModule}
    (hr : Ready s v t need) (hm : ∀ m ∈ i.modules, m ∈ need ∨ m ∈ v.needs ∨ m ∈ t.needs) :
    i.available s.impl = true := by
  obtain ⟨-, hneed, hvm, hpm, -, -⟩ := hr
  refine available_of_has fun m hmem => ?_
  obtain h | h | h := hm m hmem
  · exact hneed m h
  · cases v
    case scalar => cases h
    all_goals
      obtain rfl := List.mem_singleton.1 h
      exact hvm nofun
  · cases t
    case word => cases h
    all_goals
      obtain rfl := List.mem_singleton.1 h
      exact hpm nofun

/-- The checks before the element loop, passed by a load or store in a ready state (R22, R97, R133). -/
theorem loadStore_checks_pass {i : Instr} {v : VMode} {s : State} (hr : Ready s v .word []) (hw : i.wellFormed = true)
    (hm : i.modules = v.needs) (k : Result) : gated i s (vlChecked v s k) = k := by
  have ha := available_of_ready hr fun m hmem => .inr (.inl (hm ▸ hmem))
  rw [gated_pass _ hw ha, vlChecked_pass _ (vlWithin_of_ready hr)]

/-! ### Loads -/

/-- Loading the next element, in terms of the state before the instruction (R151). -/
theorem loadElem_of_filled {s t : State} {v : VMode} {a b : Reg} {x : Third} {scale n : Nat}
    {ext : BitVec (8 * n) → Word} {val : Nat → Word} {k : Nat} (hf : Filled s v a val k t) (h0 : v = .scalar → k = 0) :
    loadElem v a b x scale n ext k t = checkAccess t (effAddr v b x scale k s) n .read
      (.next (setA v a k (ext (s.memRead (effAddr v b x scale k s) n)) t)) := by
  rw [loadElem, hf.effAddr b x scale h0, memRead_congr hf.rest.mem]

/-- The loop of a load whose first bad element is m (R138). -/
theorem forElems_load_stops {s : State} {v : VMode} {b : Reg} {x : Third} {scale n m : Nat} (h : s.Inv)
    (hvl : vlWithin v s = true) (a : Reg) (ext : BitVec (8 * n) → Word)
    (hbad : FirstBad s v (fun i => effAddr v b x scale i s) n .read m) :
    ∃ u, forElems (loadElem v a b x scale n ext) (elemCount v s) 0 s =
        .fault (badAccess u (effAddr v b x scale m s) n .read) ∧
      Filled s v a (fun i => ext (s.memRead (effAddr v b x scale i s) n)) m u := by
  obtain ⟨hm, hbelow, hfails⟩ := hbad
  refine forElems_stops (Filled s v a fun i => ext (s.memRead (effAddr v b x scale i s) n)) (.start h v a _)
    (Nat.zero_le m) (by rw [elemCount_eq_count]; omega) (fun k u _ hk hf => ?_) fun u hf => ?_
  · obtain ⟨hal, hmap⟩ := hbelow k hk
    have hkc : k < count v s := hk.trans hm
    refine ⟨_, ?_, hf.next (lt_elements_of_lt_count hvl hkc) (eq_zero_of_lt_count hkc)⟩
    rw [loadElem_of_filled hf (eq_zero_of_lt_count hkc),
      checkAccess_pass _ hal (by rwa [isMapped_congr hf.rest.impl])]
  · rw [loadElem_of_filled hf (eq_zero_of_lt_count hm),
      checkAccess_fault _ (by rwa [isMapped_congr hf.rest.impl])]

/-- The elements below m filled and nothing else changed, said of reads; a scalar load has no element below (R138). -/
theorem Filled.loadedBelow {s u : State} {v : VMode} {a : Reg} {val : Nat → Word} {m : Nat}
    (hf : Filled s v a val m u) (h0 : v = .scalar → m = 0) : LoadedBelow s u a m val := by
  refine ⟨fun q i => ?_, fun q => ?_, hf.rest.pc, byte_congr hf.rest.mem, stage_congr hf.rest.stages, hf.rest.standby,
    hf.rest.impl, hf.rest.host⟩
  · rw [hf.elem]
    by_cases hv : v = .scalar
    · simp [hv, h0 hv]
    · simp [hv]
  · rw [hf.reg, if_neg]
    rintro ⟨hv, hpos, -⟩
    have := h0 hv
    omega

/-- A load whose first bad element is m, in any mode and either format (R45, R47, R138, R343). -/
theorem runLoad_stops {j : Instr} {s : State} {v : VMode} {a b : Reg} {x : Third} {scale n m : Nat}
    {ext : BitVec (8 * n) → Word} {val : State → Word → Word} (hr : Ready s v .word []) (hw : j.wellFormed = true)
    (hmod : j.modules = v.needs) (hval : ∀ s x, ext (s.memRead x n) = val s x)
    (hbad : FirstBad s v (fun i => effAddr v b x scale i s) n .read m) :
    ∃ u, runLoad j v a b x scale n ext s = .fault (badAccess u (effAddr v b x scale m s) n .read) ∧
      LoadedBelow s u a m fun i => val s (effAddr v b x scale i s) := by
  obtain ⟨u, hloop, hf⟩ := forElems_load_stops (inv_of_ready hr) (vlWithin_of_ready hr) a ext hbad
  refine ⟨u, ?_, ?_⟩
  · rw [runLoad, loadStore_checks_pass hr hw hmod, hloop, andThen_fault]
  · simpa only [hval] using hf.loadedBelow (eq_zero_of_lt_count hbad.1)

/-! ### The load instructions -/

/-- `mk` makes the terms of a format B load of n bytes extended by `ext` (R150, R151). -/
structure LoadB (mk : VMode → Scale → Reg → Reg → Reg → Instr) (n : Nat) (ext : BitVec (8 * n) → Word) : Prop where
  exec_eq : ∀ v t a b c s, exec (mk v t a b c) s = runLoad (mk v t a b c) v a b (.reg c) (Scale.factor t) n ext s
  wellFormed_eq : ∀ v t a b c, (mk v t a b c).wellFormed = v.loadStoreOk
  modules_eq : ∀ v t a b c, (mk v t a b c).modules = v.needs

/-- The same of a format C load. -/
structure LoadC (mk : VBit → Reg → Reg → BitVec 15 → Instr) (n : Nat) (ext : BitVec (8 * n) → Word) : Prop where
  exec_eq : ∀ v a b im s, exec (mk v a b im) s = runLoad (mk v a b im) v.mode a b (.imm (immI15 im)) 1 n ext s
  wellFormed_eq : ∀ v a b im, (mk v a b im).wellFormed = true
  modules_eq : ∀ v a b im, (mk v a b im).modules = v.mode.needs

theorem loadStoreOk_of_ne_fold {v : VMode} (hv : v ≠ .fold) : v.loadStoreOk = true := bne_iff_ne.2 hv

theorem LoadB.stops {mk : VMode → Scale → Reg → Reg → Reg → Instr} {n : Nat} {ext : BitVec (8 * n) → Word}
    {val : State → Word → Word} (h : LoadB mk n ext) (hval : ∀ s x, ext (s.memRead x n) = val s x) :
    LoadStopsB mk n val := by
  intro v t a b c s m hv hr hbad
  have hw := (h.wellFormed_eq v t a b c).trans (loadStoreOk_of_ne_fold hv)
  rw [h.exec_eq]
  exact runLoad_stops hr hw (h.modules_eq v t a b c) hval hbad

theorem LoadC.stops {mk : VBit → Reg → Reg → BitVec 15 → Instr} {n : Nat} {ext : BitVec (8 * n) → Word}
    {val : State → Word → Word} (h : LoadC mk n ext) (hval : ∀ s x, ext (s.memRead x n) = val s x) :
    LoadStopsC mk n val := by
  intro v a b im s m hr hbad
  rw [h.exec_eq]
  exact runLoad_stops hr (h.wellFormed_eq v a b im) (h.modules_eq v a b im) hval hbad

theorem ldb_loadB : LoadB .ldb 1 fun w => w.signExtend 32 := by constructor <;> intros <;> rfl
theorem ldbI_loadC : LoadC .ldbI 1 fun w => w.signExtend 32 := by constructor <;> intros <;> rfl
theorem ldh_loadB : LoadB .ldh 2 fun w => w.signExtend 32 := by constructor <;> intros <;> rfl
theorem ldhI_loadC : LoadC .ldhI 2 fun w => w.signExtend 32 := by constructor <;> intros <;> rfl
theorem ldw_loadB : LoadB .ldw 4 fun w => w.setWidth 32 := by constructor <;> intros <;> rfl
theorem ldwI_loadC : LoadC .ldwI 4 fun w => w.setWidth 32 := by constructor <;> intros <;> rfl
theorem ldub_loadB : LoadB .ldub 1 fun w => w.setWidth 32 := by constructor <;> intros <;> rfl
theorem ldubI_loadC : LoadC .ldubI 1 fun w => w.setWidth 32 := by constructor <;> intros <;> rfl
theorem lduh_loadB : LoadB .lduh 2 fun w => w.setWidth 32 := by constructor <;> intros <;> rfl
theorem lduhI_loadC : LoadC .lduhI 2 fun w => w.setWidth 32 := by constructor <;> intros <;> rfl

/-! ### What each load extends (R153 to R157) -/

theorem signExtend_memRead_one (s : State) (x : Word) :
    (s.memRead x 1).signExtend 32 = (s.byte x).signExtend 32 := by rw [memRead_one]

theorem setWidth_memRead_one (s : State) (x : Word) :
    (s.memRead x 1).setWidth 32 = (s.byte x).setWidth 32 := by rw [memRead_one]

theorem signExtend_memRead_two (s : State) (x : Word) :
    (s.memRead x 2).signExtend 32 = (halfAt s x).signExtend 32 := by rw [memRead_two]

theorem setWidth_memRead_two (s : State) (x : Word) :
    (s.memRead x 2).setWidth 32 = (halfAt s x).setWidth 32 := by rw [memRead_two]

theorem setWidth_memRead_four (s : State) (x : Word) : (s.memRead x 4).setWidth 32 = wordAt s x := by
  rw [memRead_four]
  exact BitVec.setWidth_eq _

/-- Settles O45: the loop of every load stops at its first bad element with the elements below it filled. -/
theorem loadFaults : Obligations.LoadFaults :=
  ⟨ldb_loadB.stops signExtend_memRead_one, ldh_loadB.stops signExtend_memRead_two,
    ldw_loadB.stops setWidth_memRead_four, ldub_loadB.stops setWidth_memRead_one,
    lduh_loadB.stops setWidth_memRead_two, ldbI_loadC.stops signExtend_memRead_one,
    ldhI_loadC.stops signExtend_memRead_two, ldwI_loadC.stops setWidth_memRead_four,
    ldubI_loadC.stops setWidth_memRead_one, lduhI_loadC.stops setWidth_memRead_two⟩

/-! ### Stores -/

theorem Stored.start {s : State} (h : s.Inv) (addr val : Nat → Word) (n : Nat) : Stored s addr val n 0 s :=
  ⟨h, rfl, rfl, rfl, rfl, rfl, rfl, fun _ _ => ⟨rfl, rfl⟩, fun i hi => absurd hi (Nat.not_lt_zero i)⟩

/-- One more element: it lies over the earlier ones (R52). -/
theorem Stored.next {s t : State} {addr val : Nat → Word} {n k : Nat} (h : Stored s addr val n k t) (hn : n ≤ 4) :
    Stored s addr val n (k + 1) (t.memWrite (addr k) n (val k)) where
  inv := inv_memWrite h.inv _ _ _
  regs := by rw [memWrite_regs, h.regs]
  vregs := by rw [memWrite_vregs, h.vregs]
  pc := by rw [memWrite_pc, h.pc]
  standby := by rw [memWrite_standby, h.standby]
  impl := by rw [memWrite_impl, h.impl]
  host := by rw [memWrite_host, h.host]
  outside y hy := by
    have hyk := hy k (Nat.lt_succ_self k)
    rw [memWrite_byte _ _ _ _ h.inv.mem hn, memWrite_stage _ _ _ _ h.inv.stages hn, if_neg (by omega),
      if_neg (by omega)]
    exact h.outside y fun i hi => hy i (by omega)
  inside i hi y hy hlast := by
    rw [memWrite_byte _ _ _ _ h.inv.mem hn, memWrite_stage _ _ _ _ h.inv.stages hn]
    obtain rfl | hik := Nat.eq_or_lt_of_le (Nat.le_of_lt_succ hi)
    · rw [if_pos hy, if_pos hy]
      exact ⟨rfl, rfl⟩
    · have hyk := hlast k hik (Nat.lt_succ_self k)
      rw [if_neg (by omega), if_neg (by omega)]
      exact h.inside i hik y hy fun j hij hjk => hlast j hij (by omega)

section Kept

variable {s t : State} {addr val : Nat → Word} {n k : Nat}

theorem Stored.reg (h : Stored s addr val n k t) (q : Reg) : t.reg q = s.reg q := by
  rw [State.reg, h.regs, State.reg]

theorem Stored.elem (h : Stored s addr val n k t) (q : Reg) (i : Nat) : t.elem q i = s.elem q i := by
  rw [State.elem, h.vregs, State.elem]

/-- A store changes no operand of a later element (R129). -/
theorem Stored.opA (h : Stored s addr val n k t) (v : VMode) (a : Reg) (i : Nat) : opA v a i t = opA v a i s := by
  cases v
  case scalar => exact h.reg a
  all_goals exact h.elem a i

theorem Stored.opC (h : Stored s addr val n k t) (v : VMode) (x : Third) (i : Nat) : opC v x i t = opC v x i s := by
  cases x <;> cases v <;> simp [Machine.opC, h.reg, h.elem]

theorem Stored.effAddr (h : Stored s addr val n k t) (v : VMode) (b : Reg) (x : Third) (scale i : Nat) :
    effAddr v b x scale i t = effAddr v b x scale i s := by
  simp only [Machine.effAddr, h.opC, h.reg]

/-- Storing an element after others, in terms of the state before the instruction (R152). -/
theorem storeElem_of_stored (h : Stored s addr val n k t) (v : VMode) (a b : Reg) (x : Third) (scale i : Nat) :
    storeElem v a b x scale n i t = checkAccess t (Machine.effAddr v b x scale i s) n .write
      (.next (t.memWrite (Machine.effAddr v b x scale i s) n (Machine.opA v a i s))) := by
  rw [storeElem, h.effAddr, h.opA]

/-- What has been stored, said of reads, with pc moved on as `Stores` says it of a completed store. -/
theorem Stored.stores_advance (h : Stored s addr val n k t) (hn : n ≤ 4) : Stores s t.advance k n addr val := by
  refine ⟨h.reg, h.elem, by rw [advance_pc, h.pc], h.standby, h.impl, h.host, h.outside, fun i hi j hj hlast => ?_⟩
  have hoff := toNat_offset (addr i) hn hj
  have hin := h.inside i hi (addr i + BitVec.ofNat 32 j) (by omega) fun l hil hlk => hlast l hlk hil
  rwa [hoff] at hin

end Kept

/-- The loop of a store whose first bad element is m (R138). -/
theorem forElems_store_stops {s : State} {v : VMode} {b : Reg} {x : Third} {scale n m : Nat} (h : s.Inv) (a : Reg)
    (hn : n ≤ 4) (hbad : FirstBad s v (fun i => effAddr v b x scale i s) n .write m) :
    ∃ u, forElems (storeElem v a b x scale n) (elemCount v s) 0 s =
        .fault (badAccess u (effAddr v b x scale m s) n .write) ∧
      Stored s (fun i => effAddr v b x scale i s) (fun i => srcA v a s i) n m u := by
  obtain ⟨hm, hbelow, hfails⟩ := hbad
  refine forElems_stops (Stored s (fun i => effAddr v b x scale i s) (fun i => srcA v a s i) n) (.start h _ _ n)
    (Nat.zero_le m) (by rw [elemCount_eq_count]; omega) (fun k u _ hk hf => ?_) fun u hf => ?_
  · obtain ⟨hal, hmap⟩ := hbelow k hk
    refine ⟨_, ?_, hf.next hn⟩
    rw [storeElem_of_stored hf, checkAccess_pass _ hal (by rwa [isMapped_congr hf.impl]), opA_eq_srcA]
  · rw [storeElem_of_stored hf, checkAccess_fault _ (by rwa [isMapped_congr hf.impl])]

/-- A store whose first bad element is m, in any mode and either format (R45, R47, R138, R343). -/
theorem runStore_stops {j : Instr} {s : State} {v : VMode} {a b : Reg} {x : Third} {scale n m : Nat}
    (hr : Ready s v .word []) (hw : j.wellFormed = true) (hmod : j.modules = v.needs) (hn : n ≤ 4)
    (hbad : FirstBad s v (fun i => effAddr v b x scale i s) n .write m) :
    ∃ u, runStore j v a b x scale n s = .fault (badAccess u (effAddr v b x scale m s) n .write) ∧ u.pc = s.pc ∧
      Stores s u.advance m n (fun i => effAddr v b x scale i s) fun i => srcA v a s i := by
  obtain ⟨u, hloop, hf⟩ := forElems_store_stops (inv_of_ready hr) a hn hbad
  refine ⟨u, ?_, hf.pc, hf.stores_advance hn⟩
  rw [runStore, loadStore_checks_pass hr hw hmod, hloop, andThen_fault]

/-! ### The store instructions -/

/-- `mk` makes the terms of a format B store of n bytes, at most four (R150, R152). -/
structure StoreB (mk : VMode → Scale → Reg → Reg → Reg → Instr) (n : Nat) : Prop where
  size_le : n ≤ 4
  exec_eq : ∀ v t a b c s, exec (mk v t a b c) s = runStore (mk v t a b c) v a b (.reg c) (Scale.factor t) n s
  wellFormed_eq : ∀ v t a b c, (mk v t a b c).wellFormed = v.loadStoreOk
  modules_eq : ∀ v t a b c, (mk v t a b c).modules = v.needs

/-- The same of a format C store. -/
structure StoreC (mk : VBit → Reg → Reg → BitVec 15 → Instr) (n : Nat) : Prop where
  size_le : n ≤ 4
  exec_eq : ∀ v a b im s, exec (mk v a b im) s = runStore (mk v a b im) v.mode a b (.imm (immI15 im)) 1 n s
  wellFormed_eq : ∀ v a b im, (mk v a b im).wellFormed = true
  modules_eq : ∀ v a b im, (mk v a b im).modules = v.mode.needs

theorem StoreB.stops {mk : VMode → Scale → Reg → Reg → Reg → Instr} {n : Nat} (h : StoreB mk n) :
    StoreStopsB mk n := by
  intro v t a b c s m hv hr hbad
  have hw := (h.wellFormed_eq v t a b c).trans (loadStoreOk_of_ne_fold hv)
  rw [h.exec_eq]
  exact runStore_stops hr hw (h.modules_eq v t a b c) h.size_le hbad

theorem StoreC.stops {mk : VBit → Reg → Reg → BitVec 15 → Instr} {n : Nat} (h : StoreC mk n) :
    StoreStopsC mk n := by
  intro v a b im s m hr hbad
  rw [h.exec_eq]
  exact runStore_stops hr (h.wellFormed_eq v a b im) (h.modules_eq v a b im) h.size_le hbad

theorem stb_storeB : StoreB .stb 1 := by refine ⟨by decide, ?_, ?_, ?_⟩ <;> intros <;> rfl
theorem stbI_storeC : StoreC .stbI 1 := by refine ⟨by decide, ?_, ?_, ?_⟩ <;> intros <;> rfl
theorem sth_storeB : StoreB .sth 2 := by refine ⟨by decide, ?_, ?_, ?_⟩ <;> intros <;> rfl
theorem sthI_storeC : StoreC .sthI 2 := by refine ⟨by decide, ?_, ?_, ?_⟩ <;> intros <;> rfl
theorem stw_storeB : StoreB .stw 4 := by refine ⟨by decide, ?_, ?_, ?_⟩ <;> intros <;> rfl
theorem stwI_storeC : StoreC .stwI 4 := by refine ⟨by decide, ?_, ?_, ?_⟩ <;> intros <;> rfl

/-- Settles O46: the loop of every store stops at its first bad element with the elements below it stored. -/
theorem storeFaults : Obligations.StoreFaults :=
  ⟨stb_storeB.stops, stbI_storeC.stops, sth_storeB.stops, sthI_storeC.stops, stw_storeB.stops, stwI_storeC.stops⟩

end Sys2Proof.Machine
end

section
/-! Decoding inverts encoding and encoding inverts decoding (R71, R84 to R97). -/

namespace Sys2Proof

/-! ### A word from its fields -/

/-- Only bits 31:29 at 111 leave a word without a format (R84, R95). -/
theorem formatOf_eq_none {w : Word} : formatOf w = none ↔ w.extractLsb' 29 3 = 0b111#3 := by
  unfold formatOf
  split
  · next h => simp [h]
  · next h =>
    simp only [h, iff_false]
    repeat' split
    all_goals exact Option.some_ne_none _

/-- The bits that the layout of a format fixes (R71). -/
def Format.FixedBits (w : Word) : Format → Prop
  | .a => w.extractLsb' 28 4 = 0#4 ∧ w.extractLsb' 2 5 = 0#5
  | .b => w.extractLsb' 28 4 = 0#4
  | .c => True
  | .d => w.extractLsb' 29 3 = 0b110#3
  | .e => w.extractLsb' 26 6 = 0b110111#6

/-- The tests that settle on a format are those of its fixed bits (R84). -/
theorem fixedBits_of_formatOf {w : Word} {f : Format} (h : formatOf w = some f) : f.FixedBits w := by
  unfold formatOf at h
  split at h
  · cases h
  split at h
  · next he => cases h; exact he
  split at h
  · next hd => cases h; exact hd
  split at h
  · next h28 =>
    split at h
    · next h2 => cases h; exact ⟨h28, h2⟩
    · cases h; exact h28
  · cases h; trivial

theorem fmtA_of_fields {w : Word} (h28 : w.extractLsb' 28 4 = 0#4) (h2 : w.extractLsb' 2 5 = 0#5) :
    fmtA (w.extractLsb' 26 2 ++ w.extractLsb' 9 6 ++ w.extractLsb' 0 2) (w.extractLsb' 15 1) (w.extractLsb' 7 2)
      (w.extractLsb' 21 5) (w.extractLsb' 16 5) = w := by
  rw [fmtA, ← h28, ← h2]
  apply BitVec.eq_of_getLsbD_eq
  intro i hi
  simp only [BitVec.getLsbD_extractLsb', BitVec.getLsbD_append]
  interval_cases i <;> simp

theorem fmtB_of_fields {w : Word} (h28 : w.extractLsb' 28 4 = 0#4) :
    fmtB (w.extractLsb' 26 2 ++ w.extractLsb' 0 7) (w.extractLsb' 14 2) (w.extractLsb' 7 2)
      (w.extractLsb' 21 5) (w.extractLsb' 16 5) (w.extractLsb' 9 5) = w := by
  rw [fmtB, ← h28]
  apply BitVec.eq_of_getLsbD_eq
  intro i hi
  simp only [BitVec.getLsbD_extractLsb', BitVec.getLsbD_append]
  interval_cases i <;> simp

theorem fmtC_of_fields (w : Word) :
    fmtC (w.extractLsb' 26 6) (w.extractLsb' 15 1) (w.extractLsb' 21 5) (w.extractLsb' 16 5)
      (w.extractLsb' 0 15) = w := by
  rw [fmtC]
  iterate 4 rw [BitVec.extractLsb'_append_extractLsb'_eq_extractLsb' (by rfl)]
  exact BitVec.extractLsb'_eq_self

theorem fmtD_of_fields {w : Word} (h : w.extractLsb' 29 3 = 0b110#3) :
    fmtD (w.extractLsb' 26 3) (w.extractLsb' 21 5) (w.extractLsb' 0 21) = w := by
  rw [fmtD, ← h]
  iterate 3 rw [BitVec.extractLsb'_append_extractLsb'_eq_extractLsb' (by rfl)]
  exact BitVec.extractLsb'_eq_self

theorem fmtE_of_fields {w : Word} (h : w.extractLsb' 26 6 = 0b110111#6) :
    fmtE (w.extractLsb' 18 3) (w.extractLsb' 21 5) (w.extractLsb' 0 18) = w := by
  rw [fmtE, ← h]
  iterate 3 rw [BitVec.extractLsb'_append_extractLsb'_eq_extractLsb' (by rfl)]
  exact BitVec.extractLsb'_eq_self

/-! ### What a row answers -/

/-- `d` is a sound answer for the word `w`: an instruction is well formed and has this word, and a rejection is not
`reservedPrefix`, which no row gives. -/
def SoundFor (d : Except DecodeError Instr) (w : Word) : Prop :=
  match d with
  | .ok i => i.wellFormed = true ∧ encode i = w
  | .error e => e ≠ .reservedPrefix

@[simp] theorem soundFor_ok (i : Instr) (w : Word) :
    SoundFor (.ok i) w ↔ i.wellFormed = true ∧ encode i = w := Iff.rfl

@[simp] theorem soundFor_error (e : DecodeError) (w : Word) : SoundFor (.error e) w ↔ e ≠ .reservedPrefix := Iff.rfl

theorem soundFor_withPacking {t : BitVec 2} {k : Packing → Instr} {w : Word}
    (h : ∀ p : Packing, t = p.bits → SoundFor (.ok (k p)) w) : SoundFor (withPacking t k) w := by
  unfold withPacking
  split
  · next p hp => exact h p (packing_bits_of_ofBits hp).symm
  · simp

theorem soundFor_withFloatPacking {t : BitVec 2} {k : Packing → Instr} {w : Word}
    (h : ∀ p : Packing, p.floatPackOk = true → t = p.bits → SoundFor (.ok (k p)) w) :
    SoundFor (withFloatPacking t k) w := by
  unfold withFloatPacking
  split
  · next p hp =>
    split
    · next hok => exact h p hok (packing_bits_of_ofBits hp).symm
    · simp
  · simp

theorem soundFor_withCrcWidth {t : BitVec 2} {k : CrcWidth → Instr} {w : Word}
    (h : ∀ p : CrcWidth, t = p.bits → SoundFor (.ok (k p)) w) : SoundFor (withCrcWidth t k) w := by
  unfold withCrcWidth
  split
  · next p hp => exact h p (crcWidth_bits_of_ofBits hp).symm
  · simp

theorem soundFor_withLoadStoreV {v : BitVec 2} {k : VMode → Instr} {w : Word}
    (h : ∀ m : VMode, m.loadStoreOk = true → v = m.bits → SoundFor (.ok (k m)) w) :
    SoundFor (withLoadStoreV v k) w := by
  unfold withLoadStoreV
  split
  · next hok => exact h _ hok (vmode_bits_ofBits v).symm
  · simp

theorem soundFor_withZero {zero : Bool} {i : Instr} {w : Word} (h : zero = true → SoundFor (.ok i) w) :
    SoundFor (withZero zero i) w := by
  unfold withZero
  split
  · next hz => exact h hz
  · simp

theorem SoundFor.of_eq {d : Except DecodeError Instr} {w w' : Word} (h : SoundFor d w) (e : w = w') : SoundFor d w' :=
  e ▸ h

/-- The literal in a row of the opcode map, as the OP it is. -/
theorem eq_ofNat_of_toNat_eq {w n : Nat} {op : BitVec w} (h : op.toNat = n) : op = BitVec.ofNat w n := by
  rw [← h, BitVec.ofNat_toNat, BitVec.setWidth_eq]

/-! ### The rows: OP is the row's number, and the encoder puts the decoded fields back -/

theorem soundFor_decodeA (op : BitVec 10) (v : BitVec 1) (t : BitVec 2) (a b : Reg) :
    SoundFor (decodeA op v t a b) (fmtA op v t a b) := by
  unfold decodeA
  split
  case h_14 => simp
  all_goals
    next h =>
    obtain rfl := eq_ofNat_of_toNat_eq h
    simp +contextual [encode, Instr.wellFormed, soundFor_withPacking, soundFor_withFloatPacking,
      soundFor_withCrcWidth, soundFor_withZero]

theorem soundFor_decodeB (op : BitVec 9) (v t : BitVec 2) (a b c : Reg) :
    SoundFor (decodeB op v t a b c) (fmtB op v t a b c) := by
  unfold decodeB
  split
  case h_79 => simp
  all_goals
    next h =>
    obtain rfl := eq_ofNat_of_toNat_eq h
    simp +contextual [encode, Instr.wellFormed, soundFor_withPacking, soundFor_withFloatPacking,
      soundFor_withLoadStoreV, soundFor_withZero]

theorem soundFor_decodeC (op : BitVec 6) (v : BitVec 1) (a b : Reg) (im : BitVec 15) :
    SoundFor (decodeC op v a b im) (fmtC op v a b im) := by
  unfold decodeC
  split
  case h_38 => simp
  all_goals
    next h =>
    obtain rfl := eq_ofNat_of_toNat_eq h
    simp +contextual [encode, Instr.wellFormed, soundFor_withZero]

theorem soundFor_decodeD (op : BitVec 3) (a : Reg) (im : BitVec 21) : SoundFor (decodeD op a im) (fmtD op a im) := by
  unfold decodeD
  split
  case h_8 => simp
  all_goals
    next h =>
    obtain rfl := eq_ofNat_of_toNat_eq h
    exact ⟨rfl, rfl⟩

theorem soundFor_decodeE (op : BitVec 3) (a : Reg) (im : BitVec 18) : SoundFor (decodeE op a im) (fmtE op a im) := by
  unfold decodeE
  split
  case h_9 => simp
  all_goals
    next h =>
    obtain rfl := eq_ofNat_of_toNat_eq h
    exact ⟨rfl, rfl⟩

/-- The decoder's answer for a word that has a format is that format's answer for the word's fields, and these make up
the word. -/
theorem soundFor_decodeWord {w : Word} {f : Format} (h : formatOf w = some f) : SoundFor (decodeWord w) w := by
  have hfixed := fixedBits_of_formatOf h
  unfold decodeWord
  rw [h]
  cases f with
  | a =>
    obtain ⟨h28, h2⟩ := hfixed
    exact (soundFor_decodeA ..).of_eq (fmtA_of_fields h28 h2)
  | b => exact (soundFor_decodeB ..).of_eq (fmtB_of_fields hfixed)
  | c => exact (soundFor_decodeC ..).of_eq (fmtC_of_fields w)
  | d => exact (soundFor_decodeD ..).of_eq (fmtD_of_fields hfixed)
  | e => exact (soundFor_decodeE ..).of_eq (fmtE_of_fields hfixed)

/-! ### Decoding the encoder's word -/

@[simp] theorem withPacking_bits (t : Packing) (k : Packing → Instr) : withPacking t.bits k = .ok (k t) := by
  simp [withPacking]

@[simp] theorem withFloatPacking_bits (t : Packing) (k : Packing → Instr) :
    withFloatPacking t.bits k = bif t.floatPackOk then .ok (k t) else .error .reservedT := by
  simp [withFloatPacking, Bool.cond_eq_ite]

@[simp] theorem withCrcWidth_bits (t : CrcWidth) (k : CrcWidth → Instr) : withCrcWidth t.bits k = .ok (k t) := by
  simp [withCrcWidth]

@[simp] theorem withLoadStoreV_bits (v : VMode) (k : VMode → Instr) :
    withLoadStoreV v.bits k = bif v.loadStoreOk then .ok (k v) else .error .reservedV := by
  simp [withLoadStoreV, Bool.cond_eq_ite]

@[simp] theorem withZero_true (i : Instr) : withZero true i = .ok i := rfl

/-- The field whose value can put a term outside its Variants table (R93): T in the rows that pack floating-point
values, V in the load/store rows. -/
def Instr.reservedField : Instr → DecodeError
  | .funpl .. | .funph .. | .fpack .. => .reservedT
  | _ => .reservedV

/-- The word of a term decodes to that term, or is rejected by the field that makes the term ill-formed. The cases go by
the format, and in format B by the check of the row. -/
theorem decodeWord_encode (i : Instr) :
    decodeWord (encode i) = bif i.wellFormed then .ok i else .error i.reservedField := by
  cases i
  case clz | ctz | clo | cto | popcnt | rev | funpl | funph | wait | sync | cctrl | crc32c | crc32 =>
    rw [encode, decode_fmtA _ _ _ _ _ (by decide)]
    simp [decodeA, Instr.wellFormed, Instr.reservedField]
  case j | jl | ldwpc | stwpc | addpc | addpchi | ldi => exact decode_fmtD _ _ _ (by decide)
  case bz | bnz | bs | bns | bltz | bgez | blez | bgtz => exact decode_fmtE _ _ _
  case stbI | sthI | stwI | ldbI | ldhI | ldwI | ldubI | lduhI | ldeaI | andI | orI | xorI | ebfI | ebfuI | mkbfI
      | addI | subI | minI | maxI | minuI | maxuI | seqI | sneI | sltI | sltuI | sleI | sleuI | shufI | xchgsrI
      | mulI | divI | divuI | remI | remuI | maddI | selI | ibfI =>
    rw [encode, decode_fmtC _ _ _ _ _ (by decide) (by decide)]
    simp [decodeC, Instr.wellFormed]
  all_goals rw [encode, decode_fmtB _ _ _ _ _ _ (by decide) (by decide)]
  case stb | sth | stw | ldb | ldh | ldw | ldub | lduh | ldea =>
    change withLoadStoreV _ (fun v => _) = _
    simp [Instr.wellFormed, Instr.reservedField]
  case fpack =>
    change withFloatPacking _ _ = _
    simp [Instr.wellFormed, Instr.reservedField]
  case shuf | xchgsr =>
    change withZero _ _ = _
    simp [Instr.wellFormed]
  case and | or | xor | sel =>
    change Except.ok _ = _
    simp [Instr.wellFormed]
  all_goals
    change withPacking _ _ = _
    simp [Instr.wellFormed]

/-! ### The claims on encodings -/

/-- Settles O10: a well-formed term has no field for its format's opcode map to reject. -/
theorem decodeOfEncode : Obligations.DecodeOfEncode := by
  intro i hw
  rw [decodeWord_encode, hw, cond_true]

theorem decodeWord_of_formatOf_none {w : Word} (h : formatOf w = none) : decodeWord w = .error .reservedPrefix := by
  unfold decodeWord
  rw [h]

/-- Settles O11: every row of the opcode map answers an instruction of its own word. -/
theorem encodeOfDecode : Obligations.EncodeOfDecode := by
  intro w i h
  cases hf : formatOf w with
  | none =>
    rw [decodeWord_of_formatOf_none hf] at h
    cases h
  | some f =>
    have hs := soundFor_decodeWord hf
    rwa [h, soundFor_ok] at hs

/-- A row's rejection names another reason, so `reservedPrefix` is the answer to a word without a format (R95). -/
theorem decodeWord_eq_reservedPrefix {w : Word} :
    decodeWord w = .error .reservedPrefix ↔ w.extractLsb' 29 3 = 0b111#3 := by
  rw [← formatOf_eq_none]
  refine ⟨fun h => ?_, decodeWord_of_formatOf_none⟩
  cases hf : formatOf w with
  | none => rfl
  | some f =>
    have hs := soundFor_decodeWord hf
    rw [h, soundFor_error] at hs
    exact absurd rfl hs

theorem reservedField_ne_reservedPrefix (i : Instr) : i.reservedField ≠ .reservedPrefix := by
  unfold Instr.reservedField
  split <;> exact nofun

/-- Bits 31:29 are the number of 2^29s in a word. -/
theorem topBits_eq_iff (w : Word) : w.extractLsb' 29 3 = 0b111#3 ↔ 0xE0000000 ≤ w.toNat := by
  rw [← BitVec.toNat_inj, BitVec.extractLsb'_toNat, Nat.shiftRight_eq_div_pow]
  have := w.isLt
  simp only [BitVec.toNat_ofNat]
  omega

/-- Settles O8: `reservedPrefix` is the answer to just these words, and the word of a term has another answer. -/
theorem reservedPrefixWords : Obligations.ReservedPrefixWords := by
  refine ⟨topBits_eq_iff, fun w => decodeWord_eq_reservedPrefix, fun i h => ?_⟩
  have hdec := decodeWord_encode i
  rw [decodeWord_eq_reservedPrefix.2 h] at hdec
  cases hw : i.wellFormed with
  | true =>
    rw [hw] at hdec
    cases hdec
  | false =>
    rw [hw] at hdec
    exact reservedField_ne_reservedPrefix i (Except.error.inj hdec).symm

/-- Settles O7: each word is the encoder's word of its instruction. -/
theorem decodesSpecWords : Obligations.DecodesSpecWords :=
  ⟨decodeOfEncode (.add .scalar .word 1#5 2#5 3#5) rfl, decodeOfEncode (.add .fold .half 1#5 2#5 3#5) rfl,
    decodeOfEncode (.addI .scalar 29#5 29#5 0x3FF4#15) rfl, decodeOfEncode (.ldwI .vector 1#5 3#5 4#15) rfl,
    decodeOfEncode (.ldw .vecVec .x4 4#5 4#5 2#5) rfl, decodeOfEncode (.sel .scalar .p231 6#5 7#5 8#5) rfl,
    decodeOfEncode (.funph .scalar .half 1#5 2#5) rfl, decodeOfEncode (.crc32c .scalar .w32 1#5 2#5) rfl,
    decodeOfEncode (.j 30#5 0#21) rfl, decodeOfEncode (.ldi 1#5 0x17FFFF#21) rfl,
    decodeOfEncode (.bnz 1#5 0x3FFF7#18) rfl, decodeOfEncode .wait rfl⟩

end Sys2Proof
end

section
/-! The six immediate encodings (R78 to R83), bit by bit and as numbers. -/

namespace Sys2Proof.Machine

/-! ### A sign-extended field -/

/-- The bits of a sign-extended field: its own, then copies of its top bit. -/
theorem getLsbD_signExtend_min {w n k : Nat} (x : BitVec (w + 1)) (hk : k < n) :
    (x.signExtend n).getLsbD k = x.getLsbD (min k w) := by
  rw [BitVec.getLsbD_signExtend, BitVec.msb_eq_getLsbD_last]
  rcases Nat.lt_or_ge k (w + 1) with h | h
  · simp [hk, h, Nat.min_eq_left (Nat.le_of_lt_succ h)]
  · simp [hk, Nat.not_lt.2 h, Nat.min_eq_right (Nat.le_of_succ_le h)]

/-- A sign-extended field as bits and as a number, with its range. -/
theorem signExtend_expansion {w n : Nat} (x : BitVec (w + 1)) (h : w + 1 ≤ n) :
    (∀ k < n, (x.signExtend n).getLsbD k = x.getLsbD (min k w)) ∧ (x.signExtend n).toInt = x.toInt ∧
      -2 ^ w ≤ (x.signExtend n).toInt ∧ (x.signExtend n).toInt ≤ 2 ^ w - 1 := by
  rw [BitVec.toInt_signExtend_of_le h]
  exact ⟨fun k hk => getLsbD_signExtend_min x hk, rfl, x.le_toInt, Int.le_sub_one_of_lt x.toInt_lt⟩

/-! ### A field above zeros -/

theorem getLsbD_append_zero {w n : Nat} (x : BitVec w) (k : Nat) :
    (x ++ 0#n).getLsbD k = if k < n then false else x.getLsbD (k - n) := by
  rw [BitVec.getLsbD_append, BitVec.getLsbD_zero]

theorem toNat_append_eq_add {w n : Nat} (x : BitVec w) (y : BitVec n) :
    (x ++ y).toNat = x.toNat * 2 ^ n + y.toNat := by
  rw [BitVec.toNat_append, ← Nat.shiftLeft_add_eq_or_of_lt y.isLt, Nat.shiftLeft_eq]

/-- A word offset as bits and as a number, with its range (R82, R83). -/
theorem signExtend_append_zero_expansion {w : Nat} (x : BitVec (w + 1)) (h : w + 1 ≤ 30) :
    (∀ k < 32, (x.signExtend 30 ++ 0#2).getLsbD k = if k < 2 then false else x.getLsbD (min (k - 2) w)) ∧
      (x.signExtend 30 ++ 0#2).toInt = 4 * x.toInt ∧ 4 * -2 ^ w ≤ (x.signExtend 30 ++ 0#2).toInt ∧
      (x.signExtend 30 ++ 0#2).toInt ≤ 4 * (2 ^ w - 1) := by
  obtain ⟨hbits, hint, hlow, hhigh⟩ := signExtend_expansion x h
  have hfour : (x.signExtend 30 ++ 0#2).toInt = 4 * (x.signExtend 30).toInt := BitVec.toInt_append_zero
  rw [hfour]
  refine ⟨fun k hk => ?_, by rw [hint], by omega, by omega⟩
  rw [getLsbD_append_zero]
  split
  · rfl
  · exact hbits _ (by omega)

/-! ### A field above copies of one bit -/

/-- n copies of a bit (R79, R80). -/
def copies (n : Nat) (b : Bool) : BitVec n := if b then BitVec.allOnes n else 0#n

theorem getLsbD_copies {n k : Nat} (b : Bool) (hk : k < n) : (copies n b).getLsbD k = b := by
  cases b <;> simp [copies, hk]

theorem toNat_copies (n : Nat) (b : Bool) : (copies n b).toNat = if b then 2 ^ n - 1 else 0 := by
  cases b <;> simp [copies]

/-- The low w bits of a field above n copies of its bit 0, which then fills the n + 1 lowest bits. -/
theorem append_copies_expansion {m : Nat} (w n : Nat) (im : BitVec m) (hw : 0 < w) :
    (∀ k < w + n, (im.extractLsb' 0 w ++ copies n (im.getLsbD 0)).getLsbD k =
        if k < n + 1 then im.getLsbD 0 else im.getLsbD (k - n)) ∧
      (im.extractLsb' 0 w ++ copies n (im.getLsbD 0)).toNat =
        im.toNat % 2 ^ w * 2 ^ n + if im.getLsbD 0 then 2 ^ n - 1 else 0 := by
  refine ⟨fun k hk => ?_, ?_⟩
  · rw [BitVec.getLsbD_append]
    rcases Nat.lt_trichotomy k n with h | rfl | h
    · rw [if_pos h, if_pos (by omega), getLsbD_copies _ h]
    · simp [hw]
    · rw [if_neg (by omega), if_neg (by omega), BitVec.getLsbD_extractLsb']
      simp [show k - n < w by omega]
  · rw [toNat_append_eq_add, toNat_copies, BitVec.extractLsb'_toNat, Nat.shiftRight_zero]

/-! ### The six encodings -/

theorem immI15HL_low {im : BitVec 15} (h : im.getLsbD 14 = false) :
    immI15HL im = (im.setWidth 14).signExtend 32 := by
  rw [immI15HL, h, BitVec.setWidth_eq_extractLsb' (by decide)]
  rfl

theorem immI15HL_high {im : BitVec 15} (h : im.getLsbD 14 = true) :
    immI15HL im = im.extractLsb' 0 14 ++ copies 18 (im.getLsbD 0) := if_pos h

theorem immI21HL_low {im : BitVec 21} (h : im.getLsbD 20 = false) :
    immI21HL im = (im.setWidth 20).signExtend 32 := by
  rw [immI21HL, h, BitVec.setWidth_eq_extractLsb' (by decide)]
  rfl

theorem immI21HL_high {im : BitVec 21} (h : im.getLsbD 20 = true) :
    immI21HL im = im.extractLsb' 0 20 ++ copies 12 (im.getLsbD 0) := if_pos h

/-- The low part of a field has the field's own bits. -/
theorem getLsbD_setWidth_min {m w k : Nat} (im : BitVec m) :
    (im.setWidth (w + 1)).getLsbD (min k w) = im.getLsbD (min k w) := by
  rw [BitVec.getLsbD_setWidth, decide_eq_true (by omega), Bool.true_and]

theorem toNat_immI21H (im : BitVec 21) : (immI21H im).toNat = im.toNat * 2 ^ 11 := by
  rw [immI21H, toNat_append_eq_add, BitVec.toNat_zero, Nat.add_zero]

theorem toInt_immI21H (im : BitVec 21) : (immI21H im).toInt = 2048 * im.toInt := BitVec.toInt_append_zero

/-- Settles O13: from the bits and the number of each of the three shapes: sign-extended, above zeros, and above copies
of bit 0. -/
theorem immediateExpansions : Obligations.ImmediateExpansions := by
  refine ⟨fun im => ?_, fun im h => ?_, fun im h => ?_, fun im h => ?_, fun im h => ?_, fun im => ?_, fun im => ?_,
    fun im => ?_⟩
  · exact signExtend_expansion im (by decide)
  · rw [immI15HL_low h]
    obtain ⟨hbits, hnumber⟩ := signExtend_expansion (n := 32) (im.setWidth 14) (by decide)
    exact ⟨fun k hk => (hbits k hk).trans (getLsbD_setWidth_min im), hnumber⟩
  · rw [immI15HL_high h]
    exact append_copies_expansion 14 18 im (by decide)
  · rw [immI21HL_low h]
    obtain ⟨hbits, hnumber⟩ := signExtend_expansion (n := 32) (im.setWidth 20) (by decide)
    exact ⟨fun k hk => (hbits k hk).trans (getLsbD_setWidth_min im), hnumber⟩
  · rw [immI21HL_high h]
    exact append_copies_expansion 20 12 im (by decide)
  · refine ⟨fun k _ => getLsbD_append_zero im k, toNat_immI21H im, ?_⟩
    have hlow := im.le_toInt
    have hhigh := im.toInt_lt
    rw [toInt_immI21H]
    omega
  · exact signExtend_append_zero_expansion im (by decide)
  · exact signExtend_append_zero_expansion im (by decide)

end Sys2Proof.Machine
end

section
/-! A step runs the instruction that the bytes at pc decode to (R44, R137), and an instruction placed at pc (R360). -/

namespace Sys2Proof.Machine

open Claims

/-! ### The step runs what the bytes at pc decode to -/

theorem stepWord_of_ok {iw : Word} {i : Instr} {s : State} (h : decodeWord iw = .ok i) :
    stepWord iw s = exec i s := by
  simp [stepWord, h]

/-- Settles O6: the fetch passes its checks, and the word it gives decodes. -/
theorem stepRunsDecoded : Obligations.StepRunsDecoded := by
  intro s i hh hsb ha hm hc hdec
  rw [step_of_fetch_ok hh hsb (fetchWord_ok ha hm hc), stepWord_of_ok hdec]

/-! ### An instruction placed at pc -/

section PlaceBytes

variable (s : State) (a : Word) (l : List Byte)

@[simp] theorem placeBytes_pc : (s.placeBytes a l).pc = s.pc := by
  induction l generalizing s a with
  | nil => rfl
  | cons v l ih => simp [State.placeBytes, ih]

@[simp] theorem placeBytes_impl : (s.placeBytes a l).impl = s.impl := by
  induction l generalizing s a with
  | nil => rfl
  | cons v l ih => simp [State.placeBytes, ih]

@[simp] theorem placeBytes_host : (s.placeBytes a l).host = s.host := by
  induction l generalizing s a with
  | nil => rfl
  | cons v l ih => simp [State.placeBytes, ih]

/-- Placing bytes makes no byte stale (R56, R360). -/
theorem placeBytes_clean (hs : Stages.wf s.stages = true) {x : Word} (hx : s.stage x = .clean) :
    (s.placeBytes a l).stage x = .clean := by
  induction l generalizing s a with
  | nil => exact hx
  | cons v l ih =>
    refine ih _ _ (wf_set_stage hs a .clean) ?_
    rw [placeByte_stage hs, hx, ite_self]

end PlaceBytes

/-- Placing the bytes of a word leaves memory as a store of the word does; only the stages differ (R42, R360). -/
theorem placeBytes_bytesOfWord_mem (s : State) (a w : Word) :
    (s.placeBytes a (bytesOfWord w)).mem = (s.memWrite a 4 w).mem := by
  have hbytes : bytesOfWord w =
      [w.setWidth 8, (w >>> 8).setWidth 8, (w >>> 8 >>> 8).setWidth 8, (w >>> 8 >>> 8 >>> 8).setWidth 8] := by
    simp only [← BitVec.shiftRight_add, BitVec.setWidth_ushiftRight_eq_extractLsb]
    rw [BitVec.setWidth_eq_extractLsb' (by decide)]
    rfl
  rw [hbytes]
  rfl

/-- The word placed at an address is the word there (R41). -/
theorem wordAt_placeBytes {s : State} (h : Memory.wf s.mem = true) (a w : Word) :
    wordAt (s.placeBytes a (bytesOfWord w)) a = w :=
  calc wordAt (s.placeBytes a (bytesOfWord w)) a
      = (s.placeBytes a (bytesOfWord w)).memRead a 4 := (memRead_four _ a).symm
    _ = (s.memWrite a 4 w).memRead a 4 := memRead_congr (placeBytes_bytesOfWord_mem s a w) a 4
    _ = w.setWidth (8 * 4) := memRead_memWrite h a w (le_refl 4)
    _ = w := BitVec.setWidth_eq w

section WithFetchWord

variable (s : State) (n w : Nat)

@[simp] theorem withFetchWord_pc : (s.withFetchWord n w).pc = s.pc := placeBytes_pc ..

@[simp] theorem withFetchWord_impl : (s.withFetchWord n w).impl = s.impl := placeBytes_impl ..

@[simp] theorem withFetchWord_host : (s.withFetchWord n w).host = s.host := placeBytes_host ..

@[simp] theorem withFetchWord_standby : (s.withFetchWord n w).standby = false := rfl

theorem withFetchWord_clean (hs : Stages.wf s.stages = true) {x : Word} (hx : s.stage x = .clean) :
    (s.withFetchWord n w).stage x = .clean := placeBytes_clean _ _ _ hs hx

end WithFetchWord

/-- The word at pc after placing a 32-bit word there. -/
theorem wordAt_withFetchWord {s : State} (h : Memory.wf s.mem = true) (w : Word) :
    wordAt (s.withFetchWord 32 w.toNat) s.pc = w := by
  refine (wordAt_placeBytes h s.pc _).trans ?_
  rw [Nat.mod_eq_of_lt w.isLt, BitVec.ofNat_toNat, BitVec.setWidth_eq]

/-- Settles O12: at reset nothing ends the run and every fetch passes its checks, and the word placed at pc decodes to
the instruction it encodes. -/
theorem placedInstructionRuns : Obligations.PlacedInstructionRuns := by
  intro i hw
  refine stepRunsDecoded _ i ?_ (withFetchWord_standby ..) ?_ ?_ (fun k _ => ?_) ?_
  · rw [State.halts, withFetchWord_host]
    rfl
  · rw [withFetchWord_pc]
    rfl
  · rw [withFetchWord_pc, isMapped_congr (withFetchWord_impl ..)]
    decide
  · exact withFetchWord_clean _ _ _ resetWellFormed.stages rfl
  · rw [withFetchWord_pc, wordAt_withFetchWord resetWellFormed.mem, decodeOfEncode i hw]

end Sys2Proof.Machine
end

section
/-! The modules an instruction needs, and the fault when one is absent (R93, R97, R133). -/

namespace Sys2Proof.Machine

open Claims

/-- The three parts of R133; a row whose T is no packed data type has nothing in the third. -/
theorem modules_eq (i : Instr) : i.modules = rowModules i ++ (vectorMode i).needs ++ (packedType i).needs := by
  cases i
  case crc32c | crc32 | stb | sth | stw | ldb | ldh | ldw | ldub | lduh | ldea | and | or | xor | shuf | sel | stbI
      | sthI | stwI | ldbI | ldhI | ldwI | ldubI | lduhI | ldeaI | andI | orI | xorI | ebfI | ebfuI | mkbfI | addI
      | subI | minI | maxI | minuI | maxuI | seqI | sneI | sltI | sltuI | sleI | sleuI | shufI | mulI | divI | divuI
      | remI | remuI | maddI | selI | ibfI =>
    exact (List.append_nil _).symm
  all_goals rfl

theorem mem_vmode_needs {v : VMode} {m : ArchModule} : m ∈ v.needs ↔ m = .vm ∧ v ≠ .scalar := by
  cases v <;> simp [VMode.needs]

theorem mem_packing_needs {t : Packing} {m : ArchModule} : m ∈ t.needs ↔ m = .pm ∧ t ≠ .word := by
  cases t <;> simp [Packing.needs]

/-- A missing module makes the instruction unavailable (R133). -/
theorem available_of_not_has {i : Instr} {p : Impl} {m : ArchModule} (hm : m ∈ i.modules) (hp : p.has m = false) :
    i.available p = false :=
  List.all_eq_false.2 ⟨m, hm, by simp [hp]⟩

/-- The fault of a term that is no instruction of the implementation, whatever its meaning (R97, R133). -/
theorem exec_illegalInstruction {i : Instr} {s : State} (h : (i.wellFormed && i.available s.impl) = false) :
    exec i s = .fault (.illegalInstruction (encode i) s) := by
  obtain ⟨k, hk⟩ := exec_gated i s
  rw [hk, gated, h]
  rfl

/-- Settles O48: the three parts of `modules_eq` are the row's column, VM and PM, and either failure of the
availability check is IllegalInstruction. -/
theorem moduleRequirements : Obligations.ModuleRequirements := by
  refine ⟨fun i s m _ hm hp => ?_, fun i m => ?_, fun i s hw => ?_⟩
  · exact exec_illegalInstruction (by rw [available_of_not_has hm hp, Bool.and_false])
  · rw [modules_eq, List.mem_append, List.mem_append, mem_vmode_needs, mem_packing_needs, or_assoc]
  · exact exec_illegalInstruction (by rw [hw, Bool.false_and])

end Sys2Proof.Machine
end

section
/-! The register frame of every instruction (R130, R136, R207). -/

namespace Sys2Proof.Machine

/-- Writing an element of one vector register changes no other (R20). -/
theorem elem_setElem_of_ne {r q : Reg} (hq : q ≠ r) (s : State) (i j : Nat) (w : Word) :
    (s.setElem r i w).elem q j = s.elem q j := by
  have hne : r.toNat ≠ q.toNat := fun h => hq (BitVec.eq_of_toNat_eq h.symm)
  unfold State.elem State.setElem
  by_cases hr : r = Reg.z
  · simp [hr]
  · simp [hr, hne]

/-- `KeepsBut d s t`: from s to t the host's inputs are kept, and every register of both files but the one with number
d, when there is one. -/
structure KeepsBut (d : Option Reg) (s t : State) : Prop where
  host : t.host = s.host
  reg : ∀ q, (∀ r, d = some r → q ≠ r) → t.reg q = s.reg q
  elem : ∀ q k, (∀ r, d = some r → q ≠ r) → t.elem q k = s.elem q k

namespace KeepsBut

variable {d : Option Reg} {a : Reg} {s u t : State}

theorem refl : KeepsBut d s s := ⟨rfl, fun _ _ => rfl, fun _ _ _ => rfl⟩

/-- An update that leaves the register files and the host alone. -/
theorem of_same (h : KeepsBut d s u) (hhost : t.host = u.host) (hreg : ∀ q, t.reg q = u.reg q)
    (helem : ∀ q k, t.elem q k = u.elem q k) : KeepsBut d s t :=
  ⟨hhost.trans h.host, fun q hq => (hreg q).trans (h.reg q hq), fun q k hq => (helem q k).trans (h.elem q k hq)⟩

theorem advance (h : KeepsBut d s u) : KeepsBut d s u.advance := h.of_same rfl (fun _ => rfl) fun _ _ => rfl

theorem jump (h : KeepsBut d s u) (x : Word) : KeepsBut d s (u.jump x) :=
  h.of_same rfl (fun _ => rfl) fun _ _ => rfl

theorem memWrite (h : KeepsBut d s u) (x : Word) (n : Nat) (w : Word) : KeepsBut d s (u.memWrite x n w) :=
  h.of_same (memWrite_host ..) (memWrite_reg _ _ _ _) (memWrite_elem _ _ _ _)

theorem moveStage (h : KeepsBut d s u) (r : CacheRange) (f g : Stage) : KeepsBut d s (u.moveStage r f g) :=
  h.of_same rfl (fun _ => rfl) fun _ _ => rfl

theorem syncStages (h : KeepsBut d s u) : KeepsBut d s u.syncStages := h.of_same rfl (fun _ => rfl) fun _ _ => rfl

theorem setReg (h : KeepsBut (some a) s u) (w : Word) : KeepsBut (some a) s (u.setReg a w) where
  host := h.host
  reg q hq := by rw [reg_setReg, if_neg fun hqa => hq a rfl hqa.1, h.reg q hq]
  elem := h.elem

theorem setElem (h : KeepsBut (some a) s u) (i : Nat) (w : Word) : KeepsBut (some a) s (u.setElem a i w) where
  host := h.host
  reg := h.reg
  elem q k hq := by rw [elem_setElem_of_ne (hq a rfl), h.elem q k hq]

theorem setA (h : KeepsBut (some a) s u) (v : VMode) (i : Nat) (w : Word) :
    KeepsBut (some a) s (Machine.setA v a i w u) := by
  cases v
  case scalar => exact h.setReg w
  all_goals exact h.setElem i w

end KeepsBut

/-! ### The shared runs -/

section Runs

variable {i : Instr} {v : VMode} {a b : Reg} {x : Third} {scale n : Nat} {d : Option Reg} {s t : State}

/-- A register instruction writes its destination alone (R130). -/
theorem runElems_keepsBut {f : Word → Word → Word → Word} (h : runElems i v a b x f s = .next t) :
    KeepsBut (some a) s t := by
  obtain ⟨-, -, -, rfl⟩ := runElems_eq_next.1 h
  have hloop : KeepsBut (some a) s (writeElems v a b x f s) :=
    foldElems_induct (fun _ u => KeepsBut (some a) s u) .refl fun j u _ _ hu => hu.setA v j _
  exact hloop.advance

/-- LDEA writes its destination alone (R158). -/
theorem runLdea_keepsBut (h : runLdea i v a b x scale s = .next t) : KeepsBut (some a) s t := by
  obtain ⟨-, -, h⟩ := gated_eq_next.1 h
  obtain ⟨-, h⟩ := vlChecked_eq_next.1 h
  cases h
  exact (foldElems_induct (fun _ u => KeepsBut (some a) s u) .refl fun j u _ _ hu => hu.setA v j _).advance

/-- A load writes its destination alone (R151). -/
theorem runLoad_keepsBut {ext : BitVec (8 * n) → Word} (h : runLoad i v a b x scale n ext s = .next t) :
    KeepsBut (some a) s t := by
  obtain ⟨-, -, h⟩ := gated_eq_next.1 h
  obtain ⟨-, h⟩ := vlChecked_eq_next.1 h
  obtain ⟨u, hloop, h⟩ := andThen_eq_next.1 h
  cases h
  refine (forElems_induct (fun _ u => KeepsBut (some a) s u) .refl (fun j w w' _ _ hw hn => ?_) hloop).advance
  obtain ⟨-, -, hn⟩ := checkAccess_eq_next.1 hn
  cases hn
  exact hw.setA v j _

/-- A store writes no register (R152). -/
theorem runStore_keepsBut (h : runStore i v a b x scale n s = .next t) : KeepsBut d s t := by
  obtain ⟨-, -, h⟩ := gated_eq_next.1 h
  obtain ⟨-, h⟩ := vlChecked_eq_next.1 h
  obtain ⟨u, hloop, h⟩ := andThen_eq_next.1 h
  cases h
  refine (forElems_induct (fun _ u => KeepsBut d s u) .refl (fun j w w' _ _ hw hn => ?_) hloop).advance
  obtain ⟨-, -, hn⟩ := checkAccess_eq_next.1 hn
  cases hn
  exact hw.memWrite _ n _

/-- A branch writes no register (R197). -/
theorem runBranch_keepsBut {im : BitVec 18} {c : Bool} (h : runBranch i im c s = .next t) : KeepsBut d s t := by
  obtain ⟨-, -, h⟩ := gated_eq_next.1 h
  cases h
  cases c with
  | true => exact KeepsBut.refl.jump _
  | false => exact KeepsBut.refl.advance

/-- An instruction whose meaning is one register write (R164, R184, R185). -/
theorem gated_setReg_keepsBut {w : Word} (h : gated i s (.next (s.setReg a w).advance) = .next t) :
    KeepsBut (some a) s t := by
  obtain ⟨-, -, h⟩ := gated_eq_next.1 h
  cases h
  exact (KeepsBut.refl.setReg w).advance

theorem runXchgsr_keepsBut {m : Word} (h : runXchgsr i a b m s = .next t) : KeepsBut (some a) s t := by
  obtain ⟨-, -, h⟩ := gated_eq_next.1 h
  split at h
  · cases h
    exact KeepsBut.refl.advance
  · split at h
    · cases h
    · split at h
      · cases h
        exact (KeepsBut.refl.setReg _).advance
      · cases h

/-- A cache operation that completes changes nothing, or moves bytes from one stage to another (R329). -/
theorem cacheOp_eq_next {p q : Word} (h : cacheOp p q s = .next t) : t = s ∨ ∃ r f g, t = s.moveStage r f g := by
  have moved {r : CacheRange} {f g : Stage} (h : Host.Outcome.next (s.moveStage r f g) = (.next t : Result)) :
      t = s ∨ ∃ r f g, t = s.moveStage r f g := .inr ⟨r, f, g, (Host.Outcome.next.inj h).symm⟩
  unfold cacheOp at h
  split_ifs at h
  · exact moved h
  · exact .inl (invalidateData_eq_next h)
  · exact .inl (Host.Outcome.next.inj h).symm
  · exact moved h
  · exact .inl (invalidateData_eq_next h)
  · exact moved h
  · exact moved h
  · exact .inl (Host.Outcome.next.inj h).symm

theorem execCctrl_keepsBut (h : execCctrl a b s = .next t) : KeepsBut (some a) s t := by
  obtain ⟨-, -, h⟩ := gated_eq_next.1 h
  obtain ⟨u, hop, h⟩ := andThen_eq_next.1 h
  cases h
  have hu : KeepsBut (some a) s u := by
    obtain rfl | ⟨r, f, g, rfl⟩ := cacheOp_eq_next hop
    · exact .refl
    · exact KeepsBut.refl.moveStage r f g
  exact (hu.setReg _).advance

theorem execLdwpc_keepsBut {im : BitVec 21} (h : execLdwpc a im s = .next t) : KeepsBut (some a) s t := by
  obtain ⟨-, -, h⟩ := gated_eq_next.1 h
  obtain ⟨-, -, h⟩ := checkAccess_eq_next.1 h
  cases h
  exact (KeepsBut.refl.setReg _).advance

theorem execStwpc_keepsBut {im : BitVec 21} (h : execStwpc a im s = .next t) : KeepsBut d s t := by
  obtain ⟨-, -, h⟩ := gated_eq_next.1 h
  obtain ⟨-, -, h⟩ := checkAccess_eq_next.1 h
  cases h
  exact (KeepsBut.refl.memWrite _ 4 _).advance

theorem execWait_keepsBut (h : execWait s = .next t) : KeepsBut d s t := by
  obtain ⟨-, -, h⟩ := gated_eq_next.1 h
  cases h
  exact KeepsBut.refl.of_same rfl (fun _ => rfl) fun _ _ => rfl

theorem execSync_keepsBut (h : execSync s = .next t) : KeepsBut d s t := by
  obtain ⟨-, -, h⟩ := gated_eq_next.1 h
  cases h
  exact KeepsBut.refl.syncStages.advance

theorem execJ_keepsBut {im : BitVec 21} (h : execJ a im s = .next t) : KeepsBut d s t := by
  obtain ⟨-, -, h⟩ := gated_eq_next.1 h
  cases h
  exact KeepsBut.refl.jump _

/-- JL writes LR (R207). -/
theorem execJl_keepsBut {im : BitVec 21} (h : execJl a im s = .next t) : KeepsBut (some Reg.lr) s t := by
  obtain ⟨-, -, h⟩ := gated_eq_next.1 h
  cases h
  exact (KeepsBut.refl.setReg _).jump _

end Runs

/-! ### Every instruction -/

/-- A completed instruction keeps the host's inputs and every register but its destination (R130, R136, R207). -/
theorem exec_keepsBut {i : Instr} {s t : State} (h : exec i s = .next t) : KeepsBut (destination i) s t := by
  have dest {a : Reg} (hd : destination i = some a) (hk : KeepsBut (some a) s t) : KeepsBut (destination i) s t :=
    hd ▸ hk
  have hshape := exec_shape i s
  unfold ExecShape at hshape
  obtain ⟨v, a, b, x, f, e, hd⟩ | ⟨v, a, b, x, k, n, ext, e, hd⟩ | ⟨v, a, b, x, k, e, hd⟩ |
    ⟨v, a, b, x, k, n, -, e, -⟩ | ⟨im, c, e, -⟩ | hrest := hshape
  · exact dest hd (runElems_keepsBut (e ▸ h))
  · exact dest hd (runLoad_keepsBut (e ▸ h))
  · exact dest hd (runLdea_keepsBut (e ▸ h))
  · exact runStore_keepsBut (e ▸ h)
  · exact runBranch_keepsBut (e ▸ h)
  obtain ⟨a, b, c, rfl⟩ | ⟨a, b, im, rfl⟩ | ⟨a, b, rfl⟩ | rfl | rfl | ⟨a, im, rfl⟩ | ⟨a, im, rfl⟩ | ⟨a, im, rfl⟩ |
    ⟨a, im, rfl⟩ | ⟨a, im, rfl⟩ | ⟨a, im, rfl⟩ | ⟨a, im, rfl⟩ := hrest
  · exact dest (congrArg some (fmtB_a ..)) (runXchgsr_keepsBut (show execXchgsr a b c s = _ from h))
  · exact dest (congrArg some (fmtC_a ..)) (runXchgsr_keepsBut (show execXchgsrI a b im s = _ from h))
  · exact dest (congrArg some (fmtA_a ..)) (execCctrl_keepsBut h)
  · exact execWait_keepsBut h
  · exact execSync_keepsBut h
  · exact execJ_keepsBut h
  · exact execJl_keepsBut h
  · exact dest (congrArg some (fmtD_a ..)) (execLdwpc_keepsBut h)
  · exact execStwpc_keepsBut h
  · exact dest (congrArg some (fmtD_a ..)) (gated_setReg_keepsBut (show execAddpc a im s = _ from h))
  · exact dest (congrArg some (fmtD_a ..)) (gated_setReg_keepsBut (show execAddpchi a im s = _ from h))
  · exact dest (congrArg some (fmtD_a ..)) (gated_setReg_keepsBut (show execLdi a im s = _ from h))

/-- Settles O58: no update of an instruction is a write to a register other than its destination. -/
theorem registersKept : Obligations.RegistersKept := by
  intro i s t _ h
  have hk := exec_keepsBut h
  exact ⟨exec_impl h, hk.host, hk.reg, hk.elem⟩

end Sys2Proof.Machine
end

section
/-! Which instructions change memory and cache stages (R136, R152, R328, R329). -/

namespace Sys2Proof.Machine

/-- Two states with the same memory and the same cache stages. -/
structure SameMemory (s t : State) : Prop where
  mem : t.mem = s.mem
  stages : t.stages = s.stages

namespace SameMemory

variable {s u : State}

theorem refl : SameMemory s s := ⟨rfl, rfl⟩

theorem advance (h : SameMemory s u) : SameMemory s u.advance := ⟨h.mem, h.stages⟩

theorem jump (h : SameMemory s u) (x : Word) : SameMemory s (u.jump x) := ⟨h.mem, h.stages⟩

theorem setReg (h : SameMemory s u) (a : Reg) (w : Word) : SameMemory s (u.setReg a w) := ⟨h.mem, h.stages⟩

theorem setA (h : SameMemory s u) (v : VMode) (a : Reg) (i : Nat) (w : Word) :
    SameMemory s (Machine.setA v a i w u) :=
  ⟨(setA_mem ..).trans h.mem, (setA_stages ..).trans h.stages⟩

end SameMemory

/-! ### The runs that only write registers -/

section Runs

variable {i : Instr} {v : VMode} {a b : Reg} {x : Third} {scale n : Nat} {s t : State}

/-- A register instruction leaves memory alone (R136). -/
theorem runElems_sameMemory {f : Word → Word → Word → Word} (h : runElems i v a b x f s = .next t) :
    SameMemory s t := by
  obtain ⟨-, -, -, rfl⟩ := runElems_eq_next.1 h
  have hloop : SameMemory s (writeElems v a b x f s) :=
    foldElems_induct (fun _ u => SameMemory s u) .refl fun j _ _ _ hu => hu.setA v a j _
  exact hloop.advance

/-- LDEA accesses no memory (R158). -/
theorem runLdea_sameMemory (h : runLdea i v a b x scale s = .next t) : SameMemory s t := by
  obtain ⟨-, -, h⟩ := gated_eq_next.1 h
  obtain ⟨-, h⟩ := vlChecked_eq_next.1 h
  cases h
  exact (foldElems_induct (fun _ u => SameMemory s u) .refl fun j _ _ _ hu => hu.setA v a j _).advance

/-- A load reads memory and leaves it alone (R151). -/
theorem runLoad_sameMemory {ext : BitVec (8 * n) → Word} (h : runLoad i v a b x scale n ext s = .next t) :
    SameMemory s t := by
  obtain ⟨-, -, h⟩ := gated_eq_next.1 h
  obtain ⟨-, h⟩ := vlChecked_eq_next.1 h
  obtain ⟨u, hloop, h⟩ := andThen_eq_next.1 h
  cases h
  refine (forElems_induct (fun _ u => SameMemory s u) .refl (fun j w w' _ _ hw hn => ?_) hloop).advance
  obtain ⟨-, -, hn⟩ := checkAccess_eq_next.1 hn
  cases hn
  exact hw.setA v a j _

/-- A branch moves pc only (R197). -/
theorem runBranch_sameMemory {im : BitVec 18} {c : Bool} (h : runBranch i im c s = .next t) : SameMemory s t := by
  obtain ⟨-, -, h⟩ := gated_eq_next.1 h
  cases h
  cases c with
  | true => exact SameMemory.refl.jump _
  | false => exact SameMemory.refl.advance

theorem runXchgsr_sameMemory {m : Word} (h : runXchgsr i a b m s = .next t) : SameMemory s t := by
  obtain ⟨-, -, h⟩ := gated_eq_next.1 h
  split at h
  · cases h
    exact SameMemory.refl.advance
  · split at h
    · cases h
    · split at h
      · cases h
        exact (SameMemory.refl.setReg a _).advance
      · cases h

/-- An instruction whose meaning is one register write (R164, R184, R185). -/
theorem gated_setReg_sameMemory {w : Word} (h : gated i s (.next (s.setReg a w).advance) = .next t) :
    SameMemory s t := by
  obtain ⟨-, -, h⟩ := gated_eq_next.1 h
  cases h
  exact (SameMemory.refl.setReg a w).advance

theorem execLdwpc_sameMemory {im : BitVec 21} (h : execLdwpc a im s = .next t) : SameMemory s t := by
  obtain ⟨-, -, h⟩ := gated_eq_next.1 h
  obtain ⟨-, -, h⟩ := checkAccess_eq_next.1 h
  cases h
  exact (SameMemory.refl.setReg a _).advance

theorem execWait_sameMemory (h : execWait s = .next t) : SameMemory s t := by
  obtain ⟨-, -, h⟩ := gated_eq_next.1 h
  cases h
  exact ⟨rfl, rfl⟩

theorem execJ_sameMemory {im : BitVec 21} (h : execJ a im s = .next t) : SameMemory s t := by
  obtain ⟨-, -, h⟩ := gated_eq_next.1 h
  cases h
  exact SameMemory.refl.jump _

theorem execJl_sameMemory {im : BitVec 21} (h : execJl a im s = .next t) : SameMemory s t := by
  obtain ⟨-, -, h⟩ := gated_eq_next.1 h
  cases h
  exact (SameMemory.refl.setReg Reg.lr _).jump _

/-! ### The two instructions on cache stages -/

/-- CCTRL changes no byte of memory (R329). -/
theorem execCctrl_mem (h : execCctrl a b s = .next t) : t.mem = s.mem := by
  obtain ⟨-, -, h⟩ := gated_eq_next.1 h
  obtain ⟨u, hop, h⟩ := andThen_eq_next.1 h
  cases h
  obtain rfl | ⟨r, f, g, rfl⟩ := cacheOp_eq_next hop <;> rfl

/-- SYNC changes no byte of memory (R328). -/
theorem execSync_mem (h : execSync s = .next t) : t.mem = s.mem := by
  obtain ⟨-, -, h⟩ := gated_eq_next.1 h
  cases h
  rfl

end Runs

/-! ### Every instruction -/

/-- An instruction that is no store keeps memory, and the cache stages too unless it is CCTRL or SYNC (R136, R152,
R328, R329). -/
theorem exec_sameMemory {i : Instr} {s t : State} (hi : isStore i = false) (h : exec i s = .next t) :
    SameMemory s t ∨ t.mem = s.mem ∧ ((∃ a b, i = .cctrl a b) ∨ i = .sync) := by
  have hshape := exec_shape i s
  unfold ExecShape at hshape
  obtain ⟨v, a, b, x, f, e, -⟩ | ⟨v, a, b, x, k, n, ext, e, -⟩ | ⟨v, a, b, x, k, e, -⟩ |
    ⟨v, a, b, x, k, n, -, -, hst⟩ | ⟨im, c, e, -⟩ | hrest := hshape
  · exact .inl (runElems_sameMemory (e ▸ h))
  · exact .inl (runLoad_sameMemory (e ▸ h))
  · exact .inl (runLdea_sameMemory (e ▸ h))
  · exact absurd (hi.symm.trans hst) Bool.false_ne_true
  · exact .inl (runBranch_sameMemory (e ▸ h))
  obtain ⟨a, b, c, rfl⟩ | ⟨a, b, im, rfl⟩ | ⟨a, b, rfl⟩ | rfl | rfl | ⟨a, im, rfl⟩ | ⟨a, im, rfl⟩ | ⟨a, im, rfl⟩ |
    ⟨a, im, rfl⟩ | ⟨a, im, rfl⟩ | ⟨a, im, rfl⟩ | ⟨a, im, rfl⟩ := hrest
  · exact .inl (runXchgsr_sameMemory (show execXchgsr a b c s = _ from h))
  · exact .inl (runXchgsr_sameMemory (show execXchgsrI a b im s = _ from h))
  · exact .inr ⟨execCctrl_mem h, .inl ⟨a, b, rfl⟩⟩
  · exact .inl (execWait_sameMemory h)
  · exact .inr ⟨execSync_mem h, .inr rfl⟩
  · exact .inl (execJ_sameMemory h)
  · exact .inl (execJl_sameMemory h)
  · exact .inl (execLdwpc_sameMemory h)
  · cases hi
  · exact .inl (gated_setReg_sameMemory (show execAddpc a im s = _ from h))
  · exact .inl (gated_setReg_sameMemory (show execAddpchi a im s = _ from h))
  · exact .inl (gated_setReg_sameMemory (show execLdi a im s = _ from h))

/-- Settles O57: equal memory reads equal, byte by byte, and so do equal cache stages. -/
theorem onlyStoresChangeMemory : Obligations.OnlyStoresChangeMemory := by
  intro i s t hi h
  obtain hsame | ⟨hmem, hcache⟩ := exec_sameMemory hi h
  · exact ⟨byte_congr hsame.mem, fun _ _ => stage_congr hsame.stages⟩
  · refine ⟨byte_congr hmem, fun hcctrl hsync => ?_⟩
    obtain ⟨a, b, rfl⟩ | rfl := hcache
    · exact absurd rfl (hcctrl a b)
    · exact absurd rfl hsync

end Sys2Proof.Machine
end

section
/-! Loads, LDEA, stores and the accesses relative to pc that complete (R45, R47, R150 to R163). -/

namespace Sys2Proof.Machine

open Claims

/-! ### Effective addresses (R150) -/

section EffAddr

variable (b : Reg) (x : Third) (k i : Nat) (s : State)

/-- The sum of R150 in 32-bit arithmetic: a base, and an offset times a factor. -/
theorem ofInt_base_add_offset (base offset : Word) (m : Nat) :
    BitVec.ofInt 32 (base.toInt + offset.toInt * m) = base + offset * BitVec.ofNat 32 m := by
  rw [BitVec.ofInt_add, BitVec.ofInt_mul, BitVec.ofInt_toInt, BitVec.ofInt_toInt, BitVec.ofInt_natCast]

theorem effAddr_scalar : effAddr .scalar b x k i s = s.reg b + opC .scalar x i s * BitVec.ofNat 32 k :=
  ofInt_base_add_offset ..

theorem effAddr_vecVec : effAddr .vecVec b x k i s = s.reg b + opC .vecVec x i s * BitVec.ofNat 32 k :=
  ofInt_base_add_offset ..

/-- In V = 10 the offset is a stride. -/
theorem effAddr_vecScalar :
    effAddr .vecScalar b x k i s = s.reg b + opC .vecScalar x i s * BitVec.ofNat 32 i * BitVec.ofNat 32 k := by
  rw [effAddr, mul_assoc, ← Int.natCast_mul, ofInt_base_add_offset, BitVec.ofNat_mul, ← mul_assoc]

end EffAddr

/-- Settles O14: the equation of each mode, with the factor 1 of an immediate offset and the element 0 of a stride
worked out. -/
theorem effectiveAddresses : Obligations.EffectiveAddresses := by
  refine ⟨⟨rfl, rfl, rfl, rfl⟩, fun s b c t im i => ⟨?_, ?_, ?_, ?_, ?_, ?_⟩⟩
  · exact effAddr_scalar b (.reg c) _ i s
  · exact effAddr_vecScalar b (.reg c) _ i s
  · exact effAddr_vecVec b (.reg c) _ i s
  · exact (effAddr_scalar b _ 1 i s).trans (congrArg (s.reg b + ·) (BitVec.mul_one _))
  · exact (effAddr_vecScalar b _ 1 i s).trans (congrArg (s.reg b + ·) (BitVec.mul_one _))
  · rw [effAddr_vecScalar, BitVec.mul_zero, BitVec.zero_mul, BitVec.add_zero]

/-! ### Loads and LDEA -/

/-- Nothing outside the register files is changed, said of reads, with pc moved on. -/
theorem SameRest.nextInOrder {s u : State} (h : SameRest s u) : NextInOrder s u.advance :=
  ⟨by rw [advance_pc, h.pc], h.standby, byte_congr h.mem, stage_congr h.stages, h.impl, h.host⟩

/-- All elements of the destination filled, said as `Writes` says it of reads. -/
theorem Filled.writes {s u : State} {v : VMode} {a : Reg} {val : Nat → Word} (h : Filled s v a val (count v s) u) :
    Writes s u v a fun i e => e = val i := by
  refine ⟨fun q => ?_, fun q i => ?_⟩
  · rw [h.reg]
    by_cases hv : v = .scalar
    · simp only [hv, count, ite_true, Nat.one_pos, true_and]
      split <;> rfl
    · simp only [hv, false_and, ite_false]
  · rw [h.elem]
    by_cases hv : v = .scalar
    · simp only [hv, ne_eq, not_true_eq_false, false_and, ite_false]
    · rw [count, if_neg hv]
      split <;> rfl

/-- An instruction that ends at pc + 4 with its destination filled completes with the values filled in. -/
theorem Filled.completes {i : Instr} {s u : State} {v : VMode} {a : Reg} {val : Nat → Word}
    (h : Filled s v a val (count v s) u) (hexec : exec i s = .next u.advance) :
    Completes i s v a fun i e => e = val i :=
  ⟨u.advance, hexec, h.writes, h.rest.nextInOrder⟩

/-- A load whose accesses all pass their checks, in any mode and either format (R151). -/
theorem runLoad_completes {j : Instr} {s : State} {v : VMode} {a b : Reg} {x : Third} {scale n : Nat}
    {ext : BitVec (8 * n) → Word} {val : State → Word → Word} (hr : Ready s v .word []) (hw : j.wellFormed = true)
    (hmod : j.modules = v.needs) (hval : ∀ s x, ext (s.memRead x n) = val s x)
    (hexec : exec j s = runLoad j v a b x scale n ext s)
    (hacc : Accessible s v (fun i => effAddr v b x scale i s) n .read) :
    Completes j s v a fun i e => e = val s (effAddr v b x scale i s) := by
  obtain ⟨u, hloop, hf⟩ := forElems_load (inv_of_ready hr) (vlWithin_of_ready hr) a b x scale n ext
    (fun i hi => (hacc i (elemCount_eq_count v s ▸ hi)).1) (fun i hi => (hacc i (elemCount_eq_count v s ▸ hi)).2)
  simp only [hval, elemCount_eq_count] at hf
  refine hf.completes ?_
  rw [hexec, runLoad, loadStore_checks_pass hr hw hmod, hloop, andThen_next]

theorem LoadB.completes {mk : VMode → Scale → Reg → Reg → Reg → Instr} {n : Nat} {ext : BitVec (8 * n) → Word}
    {val : State → Word → Word} (h : LoadB mk n ext) (hval : ∀ s x, ext (s.memRead x n) = val s x) :
    LoadsB mk n val := by
  intro v t a b c s hv hr hacc
  have hw := (h.wellFormed_eq v t a b c).trans (loadStoreOk_of_ne_fold hv)
  exact runLoad_completes hr hw (h.modules_eq v t a b c) hval (h.exec_eq v t a b c s) hacc

theorem LoadC.completes {mk : VBit → Reg → Reg → BitVec 15 → Instr} {n : Nat} {ext : BitVec (8 * n) → Word}
    {val : State → Word → Word} (h : LoadC mk n ext) (hval : ∀ s x, ext (s.memRead x n) = val s x) :
    LoadsC mk n val := by
  intro v a b im s hr hacc
  exact runLoad_completes hr (h.wellFormed_eq v a b im) (h.modules_eq v a b im) hval (h.exec_eq v a b im s) hacc

/-- Settles O41: the loop of every load fills its destination with what memory holds. -/
theorem loadResults : Obligations.LoadResults :=
  ⟨ldb_loadB.completes signExtend_memRead_one, ldh_loadB.completes signExtend_memRead_two,
    ldw_loadB.completes setWidth_memRead_four, ldub_loadB.completes setWidth_memRead_one,
    lduh_loadB.completes setWidth_memRead_two, ldbI_loadC.completes signExtend_memRead_one,
    ldhI_loadC.completes signExtend_memRead_two, ldwI_loadC.completes setWidth_memRead_four,
    ldubI_loadC.completes setWidth_memRead_one, lduhI_loadC.completes setWidth_memRead_two⟩

/-- LDEA in any mode and either format (R158). -/
theorem runLdea_completes {j : Instr} {s : State} {v : VMode} {a b : Reg} {x : Third} {scale : Nat}
    (hr : Ready s v .word []) (hw : j.wellFormed = true) (hmod : j.modules = v.needs)
    (hexec : exec j s = runLdea j v a b x scale s) :
    Completes j s v a fun i e => e = effAddr v b x scale i s := by
  have hf := foldElems_ldea (inv_of_ready hr) (vlWithin_of_ready hr) a b x scale
  rw [elemCount_eq_count] at hf
  refine hf.completes ?_
  rw [hexec, runLdea, loadStore_checks_pass hr hw hmod, elemCount_eq_count]

/-- Settles O42: the loop of LDEA checks no address and fills its destination with all of them. -/
theorem loadAddressResults : Obligations.LoadAddressResults := by
  refine ⟨fun v t a b c s hv hr => ?_, fun v a b im s hr => ?_⟩
  · exact runLdea_completes hr (loadStoreOk_of_ne_fold hv) rfl rfl
  · exact runLdea_completes hr rfl rfl rfl

/-! ### Stores -/

/-- A store whose accesses all pass their checks, in any mode and either format (R152). -/
theorem runStore_completes {j : Instr} {s : State} {v : VMode} {a b : Reg} {x : Third} {scale n : Nat}
    (hr : Ready s v .word []) (hw : j.wellFormed = true) (hmod : j.modules = v.needs) (hn : n ≤ 4)
    (hacc : Accessible s v (fun i => effAddr v b x scale i s) n .write) :
    ∃ u, runStore j v a b x scale n s = .next u ∧
      Stores s u (count v s) n (fun i => effAddr v b x scale i s) fun i => srcA v a s i := by
  obtain ⟨u, hloop, hf⟩ := forElems_store (inv_of_ready hr) a b x scale n hn
    (fun i hi => (hacc i (elemCount_eq_count v s ▸ hi)).1) (fun i hi => (hacc i (elemCount_eq_count v s ▸ hi)).2)
  simp only [opA_eq_srcA, elemCount_eq_count] at hf
  refine ⟨u.advance, ?_, hf.stores_advance hn⟩
  rw [runStore, loadStore_checks_pass hr hw hmod, hloop, andThen_next]

theorem StoreB.completes {mk : VMode → Scale → Reg → Reg → Reg → Instr} {n : Nat} (h : StoreB mk n) :
    StoresB mk n := by
  intro v t a b c s hv hr hacc
  have hw := (h.wellFormed_eq v t a b c).trans (loadStoreOk_of_ne_fold hv)
  rw [h.exec_eq]
  exact runStore_completes hr hw (h.modules_eq v t a b c) h.size_le hacc

theorem StoreC.completes {mk : VBit → Reg → Reg → BitVec 15 → Instr} {n : Nat} (h : StoreC mk n) :
    StoresC mk n := by
  intro v a b im s hr hacc
  rw [h.exec_eq]
  exact runStore_completes hr (h.wellFormed_eq v a b im) (h.modules_eq v a b im) h.size_le hacc

/-- Settles O43: the loop of every store lays its elements over memory in their order. -/
theorem storeResults : Obligations.StoreResults :=
  ⟨stb_storeB.completes, stbI_storeC.completes, sth_storeB.completes, sthI_storeC.completes, stw_storeB.completes,
    stwI_storeC.completes⟩

/-! ### LDWPC and STWPC -/

/-- The word offset of R82 as the number it stands for. -/
theorem immI21X4_eq_ofInt (im : BitVec 21) : immI21X4 im = BitVec.ofInt 32 (4 * im.toInt) := by
  obtain ⟨-, hint, -⟩ := signExtend_append_zero_expansion im (by decide)
  rw [← hint, BitVec.ofInt_toInt, immI21X4]

/-- LDWPC needs no module: it begins with the check of its access (R162). -/
theorem exec_ldwpc (a : Reg) (im : BitVec 21) (s : State) :
    exec (.ldwpc a im) s = checkAccess s (s.pc + immI21X4 im) 4 .read
      (.next (s.setReg a ((s.memRead (s.pc + immI21X4 im) 4).setWidth 32)).advance) :=
  show execLdwpc a im s = _ from gated_pass _ rfl rfl

/-- STWPC likewise (R163). -/
theorem exec_stwpc (a : Reg) (im : BitVec 21) (s : State) :
    exec (.stwpc a im) s = checkAccess s (s.pc + immI21X4 im) 4 .write
      (.next (s.memWrite (s.pc + immI21X4 im) 4 (s.reg a)).advance) :=
  show execStwpc a im s = _ from gated_pass _ rfl rfl

/-- A scalar destination written is filled (R125). -/
theorem filled_setReg {s : State} (h : s.Inv) (a : Reg) (w : Word) :
    Filled s .scalar a (fun _ => w) 1 (s.setReg a w) :=
  (Filled.start h .scalar a fun _ => w).next nofun fun _ => rfl

/-- Settles O44: one access at pc plus the offset, checked like every data access. -/
theorem pcRelativeAccess : Obligations.PcRelativeAccess := by
  intro s a im x hs hx
  rw [← immI21X4_eq_ofInt] at hx
  rw [exec_stwpc, exec_ldwpc, ← hx]
  refine ⟨fun hal hmap => ?_, fun hal hmap => ?_, fun hbad => ?_, fun hbad => ?_⟩
  · refine (filled_setReg hs a (wordAt s x)).completes ?_
    rw [exec_ldwpc, ← hx, checkAccess_pass _ hal hmap, setWidth_memRead_four]
  · refine ⟨_, checkAccess_pass _ hal hmap, ?_⟩
    exact ((Stored.start hs (fun _ => x) (fun _ => s.reg a) 4).next (le_refl 4)).stores_advance (le_refl 4)
  · exact checkAccess_fault _ hbad
  · exact checkAccess_fault _ hbad

end Sys2Proof.Machine
end

section
/-! Register instructions that complete: every element of the destination is the operation on the operands the
instruction began with, and nothing else changes but pc (R121 to R130, R137). -/

namespace Sys2Proof.Machine

open Claims

/-! ### Operands and slices -/

theorem opB_eq_srcB (v : VMode) (b : Reg) (i : Nat) (s : State) : opB v b s.vl i s = srcB v b s i := by
  cases v <;> rfl

theorem opC_reg_eq_srcC (v : VMode) (c : Reg) (i : Nat) (s : State) : opC v (.reg c) i s = srcC v c s i := by
  cases v <;> rfl

/-- Slice k of a result comes from slice k of each operand, in every packed type (R124). -/
theorem lane_slices (t : Packing) (f : SliceFn) (a b c : Word) {k : Nat} (hk : k * laneWidth t < 32) :
    lane t k (slices t f a b c) = f (laneWidth t) (lane t k a) (lane t k b) (lane t k c) := by
  cases t
  case word =>
    have hwhole : ∀ x : Word, lane .word k x = x := fun x => by
      obtain rfl : k = 0 := by simp only [laneWidth] at hk; omega
      exact BitVec.extractLsb'_eq_self
    rw [hwhole, hwhole, hwhole, hwhole, slices_word]
    rfl
  case byte => exact slices_byte f a b c (by simp only [laneWidth] at hk; omega)
  case half => exact slices_half f a b c (by simp only [laneWidth] at hk; omega)

/-- A relation that a slice function meets in every width holds of every slice of its result (R121, R124). -/
theorem lanes_slices {f : SliceFn} {r : LaneRel} (hf : ∀ w a b c, r w a b c (f w a b c)) (t : Packing)
    (a b c : Word) : Lanes t r a b c (slices t f a b c) := by
  intro k hk
  rw [lane_slices t f a b c hk]
  exact hf _ _ _ _

/-! ### Completion -/

/-- Weakening what a choice says on the side where its condition holds. -/
theorem ite_imp_ite {c p q r : Prop} [Decidable c] (hpq : p → q) : (if c then p else r) → if c then q else r := by
  split
  · exact hpq
  · exact id

/-- A completed instruction's result may be said more weakly. -/
theorem completes_mono {i : Instr} {s : State} {v : VMode} {d : Reg} {p q : Nat → Word → Prop}
    (hpq : ∀ k e, p k e → q k e) (h : Completes i s v d p) : Completes i s v d q := by
  obtain ⟨u, hexec, ⟨hreg, helem⟩, hrest⟩ := h
  exact ⟨u, hexec, ⟨fun r => ite_imp_ite (hpq 0 _) (hreg r), fun r k => ite_imp_ite (hpq k _) (helem r k)⟩, hrest⟩

/-- A register instruction in a ready state, in any mode and format (R137). -/
theorem runElems_completes {i : Instr} {s : State} {v : VMode} {t : Packing} {need : List ArchModule} {a b : Reg}
    {x : Third} {f : Word → Word → Word → Word} (hr : Ready s v t need) (hw : i.wellFormed = true)
    (hm : i.modules = need ++ v.needs ++ t.needs) (hexec : exec i s = runElems i v a b x f s) :
    Completes i s v a fun k e => e = f (srcA v a s k) (srcB v b s k) (opC v x k s) := by
  have ha : i.available s.impl = true :=
    available_of_ready hr fun m hmem => by rwa [hm, List.mem_append, List.mem_append, or_assoc] at hmem
  have hvl := vlWithin_of_ready hr
  have hf := writeElems_filled (inv_of_ready hr) hvl a b x f
  simp only [opA_eq_srcA, opB_eq_srcB, elemCount_eq_count] at hf
  refine hf.completes ?_
  rw [hexec, runElems, gated_pass _ hw ha, vlChecked_pass _ hvl]

/-- `mk` makes the terms of a format B instruction of the modules column `need` that computes f on each slice. -/
structure RegisterB (mk : VMode → Packing → Reg → Reg → Reg → Instr) (need : List ArchModule) (f : SliceFn) :
    Prop where
  exec_eq : ∀ v t a b c s, exec (mk v t a b c) s = runElems (mk v t a b c) v a b (.reg c) (slices t f) s
  wellFormed_eq : ∀ v t a b c, (mk v t a b c).wellFormed = true
  modules_eq : ∀ v t a b c, (mk v t a b c).modules = need ++ v.needs ++ t.needs

/-- `mk` makes the terms of a format C instruction that computes g with the expanded immediate as operand c (R79). -/
structure RegisterC (mk : VBit → Reg → Reg → BitVec 15 → Instr) (g : Word → Word → Word → Word) : Prop where
  exec_eq : ∀ v a b im s, exec (mk v a b im) s = runElems (mk v a b im) v.mode a b (.imm (immI15HL im)) g s
  wellFormed_eq : ∀ v a b im, (mk v a b im).wellFormed = true
  modules_eq : ∀ v a b im, (mk v a b im).modules = v.mode.needs

theorem RegisterB.runs {mk : VMode → Packing → Reg → Reg → Reg → Instr} {need : List ArchModule} {f : SliceFn}
    {r : LaneRel} (h : RegisterB mk need f) (hf : ∀ w a b c, r w a b c (f w a b c)) : RunsB mk need r := by
  intro v t a b c s hr
  have hdone := runElems_completes hr (h.wellFormed_eq v t a b c) (h.modules_eq v t a b c) (h.exec_eq v t a b c s)
  refine completes_mono (fun k e he => ?_) hdone
  rw [he, opC_reg_eq_srcC]
  exact lanes_slices hf t _ _ _

theorem RegisterC.runs {mk : VBit → Reg → Reg → BitVec 15 → Instr} {g : Word → Word → Word → Word} {r : LaneRel}
    (h : RegisterC mk g) (hg : ∀ a b c, r 32 a b c (g a b c)) : RunsC mk r := by
  intro v a b im s hr
  have hm : (mk v a b im).modules = [] ++ v.mode.needs ++ Packing.word.needs :=
    (h.modules_eq v a b im).trans (List.append_nil _).symm
  have hdone := runElems_completes hr (h.wellFormed_eq v a b im) hm (h.exec_eq v a b im s)
  refine completes_mono (fun k e he => ?_) hdone
  rw [he]
  exact hg _ _ _

/-- An instruction that needs no module and whose meaning is one register write completes in every state (R137). -/
theorem gated_setReg_completes {i : Instr} {s : State} {a : Reg} {x : Word} (hw : i.wellFormed = true)
    (hm : i.modules = []) (hexec : exec i s = gated i s (.next (s.setReg a x).advance)) :
    Completes i s .scalar a fun _ e => e = x := by
  have ha : i.available s.impl = true := available_of_has (by simp [hm])
  refine ⟨_, hexec.trans (gated_pass _ hw ha), ⟨fun q => ?_, fun q k => ?_⟩,
    SameRest.nextInOrder ⟨rfl, rfl, rfl, rfl, rfl, rfl⟩⟩
  · rw [advance_reg, reg_setReg]
    simp only [true_and]
    split <;> rfl
  · rw [if_neg fun h => h.1 rfl]
    rfl

end Sys2Proof.Machine
end

section
/-! Integer arithmetic (R164, R170 to R186): what each slice function computes, and the instructions' results. -/

namespace Sys2Proof.Machine

open Claims

/-! ### The upper half of a product (R174, R175) -/

/-- The quotient by 2^w, modulo 2^w, depends on the lowest 2w bits only. -/
theorem emod_mul_ediv_emod (z : Int) {m : Int} (hm : m ≠ 0) : z % (m * m) / m % m = z / m % m := by
  have hsplit : z / m = z % (m * m) / m + m * (z / (m * m)) := by
    rw [← Int.add_mul_ediv_left _ _ hm, ← mul_assoc, Int.emod_add_mul_ediv]
  rw [hsplit, Int.add_mul_emod_self_left]

/-- The upper half of a double-width integer is its floored quotient by 2^w (R8). -/
theorem extractLsb'_ofInt_upper (w : Nat) (z : Int) :
    (BitVec.ofInt (2 * w) z).extractLsb' w w = BitVec.ofInt w (z / 2 ^ w) := by
  have hpos : (0 : Int) < 2 ^ w := by positivity
  have hsq : (2 : Int) ^ (2 * w) = 2 ^ w * 2 ^ w := by rw [two_mul, pow_add]
  apply BitVec.eq_of_toNat_eq
  rw [BitVec.extractLsb'_toNat, BitVec.toNat_ofInt, BitVec.toNat_ofInt, Nat.shiftRight_eq_div_pow]
  zify
  rw [Int.toNat_of_nonneg (Int.emod_nonneg _ (by positivity)), Int.toNat_of_nonneg (Int.emod_nonneg _ hpos.ne'), hsq,
    emod_mul_ediv_emod z hpos.ne']

theorem mulhiSlice_eq (w : Nat) (a b c : BitVec w) :
    mulhiSlice w a b c = (b.signExtend (2 * w) * c.signExtend (2 * w)).extractLsb' w w := by
  rw [BitVec.signExtend, BitVec.signExtend, ← BitVec.ofInt_mul, extractLsb'_ofInt_upper, mulhiSlice]

theorem mulhiuSlice_eq (w : Nat) (a b c : BitVec w) :
    mulhiuSlice w a b c = (b.setWidth (2 * w) * c.setWidth (2 * w)).extractLsb' w w := by
  rw [← BitVec.ofNat_toNat, ← BitVec.ofNat_toNat, ← BitVec.ofNat_mul, ← BitVec.ofInt_natCast,
    extractLsb'_ofInt_upper, mulhiuSlice, ← BitVec.ofInt_natCast]
  norm_cast

/-! ### Quotients (R176 to R179) -/

theorem truncQ_neg (q : ℚ) : truncQ (-q) = -truncQ q := by
  obtain hq | rfl | hq := lt_trichotomy q 0
  · rw [truncQ, truncQ, if_pos (by linarith), if_neg (by linarith), Int.floor_neg]
  · simp [truncQ]
  · rw [truncQ, truncQ, if_neg (by linarith), if_pos hq.le, Int.ceil_neg]

theorem truncQ_natCast_div (m n : Nat) : truncQ ((m : ℚ) / n) = (m : Int).tdiv n := by
  rw [truncQ, if_pos (by positivity), Rat.floor_natCast_div_natCast]
  rfl

/-- The rational quotient rounded toward zero is the quotient of truncated division (D8); both are odd in each
operand. -/
theorem truncQ_intCast_div (m n : Int) : truncQ ((m : ℚ) / n) = m.tdiv n := by
  obtain ⟨k, rfl | rfl⟩ := m.eq_nat_or_neg <;> obtain ⟨l, rfl | rfl⟩ := n.eq_nat_or_neg <;>
    simp only [Int.cast_neg, Int.cast_natCast, neg_div, div_neg, truncQ_neg, truncQ_natCast_div, Int.neg_tdiv,
      Int.tdiv_neg]

/-- A choice on a condition, said as what its value is on either side of it. -/
theorem eq_ite_cases {α : Type} {p : Prop} [Decidable p] {e x y z : α} (he : e = if p then x else y) (hy : y = z) :
    if p then e = x else e = z := by
  split
  · next hp => rw [he, if_pos hp]
  · next hp => rw [he, if_neg hp, hy]

theorem divSlice_result (w : Nat) (a b c : BitVec w) :
    if c = 0#w then divSlice w a b c = Config.divZero .div w b c
    else divSlice w a b c = BitVec.ofInt w (truncQ ((b.toInt : ℚ) / c.toInt)) :=
  eq_ite_cases rfl (by rw [truncQ_intCast_div])

theorem divuSlice_result (w : Nat) (a b c : BitVec w) :
    if c = 0#w then divuSlice w a b c = Config.divZero .divu w b c
    else divuSlice w a b c = BitVec.ofInt w ⌊(b.toNat : ℚ) / c.toNat⌋ :=
  eq_ite_cases rfl (by rw [Rat.floor_natCast_div_natCast, ← Int.natCast_ediv, BitVec.ofInt_natCast])

theorem remSlice_result (w : Nat) (a b c : BitVec w) :
    if c = 0#w then remSlice w a b c = Config.divZero .rem w b c
    else remSlice w a b c = BitVec.ofInt w (b.toInt - c.toInt * truncQ ((b.toInt : ℚ) / c.toInt)) :=
  eq_ite_cases rfl (by rw [truncQ_intCast_div])

theorem remuSlice_result (w : Nat) (a b c : BitVec w) :
    if c = 0#w then remuSlice w a b c = Config.divZero .remu w b c
    else remuSlice w a b c = BitVec.ofNat w (b.toNat % c.toNat) :=
  eq_ite_cases rfl rfl

/-! ### The smaller and the larger operand (R180 to R183) -/

/-- Operands with equal keys are equal, so a tie may go either way. -/
theorem ite_le_eq_ite_lt {α β : Type} [LinearOrder β] {key : α → β} (hkey : Function.Injective key) (b c : α) :
    (if key b ≤ key c then b else c) = if key b < key c then b else c := by
  obtain hlt | heq | hgt := lt_trichotomy (key b) (key c)
  · rw [if_pos hlt.le, if_pos hlt]
  · rw [hkey heq, ite_self, ite_self]
  · rw [if_neg hgt.not_ge, if_neg hgt.not_gt]

/-- The larger of two operands, with the strict test the other way round. -/
theorem ite_le_eq_ite_gt {α β : Type} [LinearOrder β] (key : α → β) (b c : α) :
    (if key b ≤ key c then c else b) = if key c < key b then b else c := by
  rw [← ite_not]
  simp only [not_le]

theorem toInt_injective {w : Nat} : Function.Injective (BitVec.toInt (n := w)) := fun _ _ => BitVec.eq_of_toInt_eq

theorem minSlice_eq (w : Nat) (a b c : BitVec w) : minSlice w a b c = if b.toInt < c.toInt then b else c :=
  ite_le_eq_ite_lt toInt_injective b c

theorem maxSlice_eq (w : Nat) (a b c : BitVec w) : maxSlice w a b c = if c.toInt < b.toInt then b else c :=
  ite_le_eq_ite_gt BitVec.toInt b c

theorem minuSlice_eq (w : Nat) (a b c : BitVec w) : minuSlice w a b c = if b.toNat < c.toNat then b else c :=
  ite_le_eq_ite_lt BitVec.toNat_injective b c

theorem maxuSlice_eq (w : Nat) (a b c : BitVec w) : maxuSlice w a b c = if c.toNat < b.toNat then b else c :=
  ite_le_eq_ite_gt BitVec.toNat b c

/-! ### The instructions -/

theorem add_registerB : RegisterB .add [] addSlice := by constructor <;> intros <;> rfl
theorem addI_registerC : RegisterC .addI (addSlice 32) := by constructor <;> intros <;> rfl
theorem sub_registerB : RegisterB .sub [] subSlice := by constructor <;> intros <;> rfl
theorem subI_registerC : RegisterC .subI (subSlice 32) := by constructor <;> intros <;> rfl
theorem mul_registerB : RegisterB .mul [] mulSlice := by constructor <;> intros <;> rfl
theorem mulI_registerC : RegisterC .mulI (mulSlice 32) := by constructor <;> intros <;> rfl
theorem madd_registerB : RegisterB .madd [] maddSlice := by constructor <;> intros <;> rfl
theorem maddI_registerC : RegisterC .maddI (maddSlice 32) := by constructor <;> intros <;> rfl
theorem mulhi_registerB : RegisterB .mulhi [] mulhiSlice := by constructor <;> intros <;> rfl
theorem mulhiu_registerB : RegisterB .mulhiu [] mulhiuSlice := by constructor <;> intros <;> rfl
theorem div_registerB : RegisterB .div [] divSlice := by constructor <;> intros <;> rfl
theorem divI_registerC : RegisterC .divI (divSlice 32) := by constructor <;> intros <;> rfl
theorem divu_registerB : RegisterB .divu [] divuSlice := by constructor <;> intros <;> rfl
theorem divuI_registerC : RegisterC .divuI (divuSlice 32) := by constructor <;> intros <;> rfl
theorem rem_registerB : RegisterB .rem [] remSlice := by constructor <;> intros <;> rfl
theorem remI_registerC : RegisterC .remI (remSlice 32) := by constructor <;> intros <;> rfl
theorem remu_registerB : RegisterB .remu [] remuSlice := by constructor <;> intros <;> rfl
theorem remuI_registerC : RegisterC .remuI (remuSlice 32) := by constructor <;> intros <;> rfl
theorem min_registerB : RegisterB .min [] minSlice := by constructor <;> intros <;> rfl
theorem minI_registerC : RegisterC .minI (minSlice 32) := by constructor <;> intros <;> rfl
theorem max_registerB : RegisterB .max [] maxSlice := by constructor <;> intros <;> rfl
theorem maxI_registerC : RegisterC .maxI (maxSlice 32) := by constructor <;> intros <;> rfl
theorem minu_registerB : RegisterB .minu [] minuSlice := by constructor <;> intros <;> rfl
theorem minuI_registerC : RegisterC .minuI (minuSlice 32) := by constructor <;> intros <;> rfl
theorem maxu_registerB : RegisterB .maxu [] maxuSlice := by constructor <;> intros <;> rfl
theorem maxuI_registerC : RegisterC .maxuI (maxuSlice 32) := by constructor <;> intros <;> rfl

/-- Settles O16: sums and low products are the slice functions themselves, and the upper halves are floored quotients
of the exact product. -/
theorem addMultiplyResults : Obligations.AddMultiplyResults :=
  ⟨add_registerB.runs fun _ _ _ _ => rfl, sub_registerB.runs fun _ _ _ _ => rfl,
    mul_registerB.runs fun _ _ _ _ => rfl, madd_registerB.runs fun _ _ _ _ => rfl,
    mulhi_registerB.runs mulhiSlice_eq, mulhiu_registerB.runs mulhiuSlice_eq⟩

/-- Settles O17: the rational quotient, truncated or floored, is the integer division of the slice. -/
theorem divisionResults : Obligations.DivisionResults :=
  ⟨div_registerB.runs divSlice_result, divu_registerB.runs divuSlice_result, rem_registerB.runs remSlice_result,
    remu_registerB.runs remuSlice_result⟩

/-- Settles O18: model and statement choose differently between equal operands only. -/
theorem minMaxResults : Obligations.MinMaxResults :=
  ⟨min_registerB.runs minSlice_eq, max_registerB.runs maxSlice_eq, minu_registerB.runs minuSlice_eq,
    maxu_registerB.runs maxuSlice_eq, minI_registerC.runs (minSlice_eq 32), maxI_registerC.runs (maxSlice_eq 32),
    minuI_registerC.runs (minuSlice_eq 32), maxuI_registerC.runs (maxuSlice_eq 32)⟩

/-- Settles O19: format C computes the slice functions of format B on whole words. -/
theorem immediateArithmetic : Obligations.ImmediateArithmetic :=
  ⟨addI_registerC.runs fun _ _ _ => rfl, subI_registerC.runs fun _ _ _ => rfl,
    mulI_registerC.runs fun _ _ _ => rfl, maddI_registerC.runs fun _ _ _ => rfl,
    divI_registerC.runs (divSlice_result 32), divuI_registerC.runs (divuSlice_result 32),
    remI_registerC.runs (remSlice_result 32), remuI_registerC.runs (remuSlice_result 32)⟩

/-! ### ADDPC, ADDPCHI and LDI -/

/-- The upper immediate of R81 as the number it stands for. -/
theorem immI21H_eq_ofNat (im : BitVec 21) : immI21H im = BitVec.ofNat 32 (im.toNat * 2048) := by
  have hnumber : (immI21H im).toNat = im.toNat * 2048 := toNat_immI21H im
  rw [← hnumber, BitVec.ofNat_toNat, BitVec.setWidth_eq]

/-- Settles O20: each is one register write of pc plus an offset, or of the immediate, with nothing to check. -/
theorem pcRelativeResults : Obligations.PcRelativeResults := by
  intro s a im
  rw [← immI21X4_eq_ofInt, ← immI21H_eq_ofNat]
  exact ⟨gated_setReg_completes rfl rfl rfl, gated_setReg_completes rfl rfl rfl, gated_setReg_completes rfl rfl rfl⟩

end Sys2Proof.Machine
end

section
/-! Comparisons, branches and jumps (R190 to R209): the mask of a comparison, and where the next instruction is. -/

namespace Sys2Proof.Machine

open Claims

/-! ### The order of the instructions (R18, R208) -/

/-- Settles O55: of the ways an instruction can finish, only branches and jumps set pc to something else than pc + 4. -/
theorem onlyBranchesMovePc : Obligations.OnlyBranchesMovePc := by
  intro i s t hflow h
  obtain ⟨u, hu, ht⟩ := exec_eq_next h
  have hadv : u.advance.pc = s.pc + 4#32 := by rw [advance_pc, hu.pc_eq]
  cases ht with
  | advance => exact hadv
  | standby => exact hadv
  | branch hbranch => exact absurd hbranch (Bool.eq_false_iff.1 hflow)
  | jump hjump => obtain rfl | rfl := hjump <;> cases hflow

/-! ### Comparisons (R190 to R196) -/

/-- The mask of a test is the mask of what the test decides (R190). -/
theorem isMask_mask {w : Nat} {test : Bool} {p : Prop} (h : test = true ↔ p) : IsMask (mask w test) p := by
  unfold IsMask
  rw [← h]
  cases test with
  | true => exact ⟨fun _ => rfl, fun hn => absurd rfl hn⟩
  | false => exact ⟨nofun, fun _ => rfl⟩

theorem seqSlice_isMask (w : Nat) (a b c : BitVec w) : IsMask (seqSlice w a b c) (b = c) :=
  isMask_mask beq_iff_eq

theorem sneSlice_isMask (w : Nat) (a b c : BitVec w) : IsMask (sneSlice w a b c) (b ≠ c) :=
  isMask_mask bne_iff_ne

theorem sltSlice_isMask (w : Nat) (a b c : BitVec w) : IsMask (sltSlice w a b c) (b.toInt < c.toInt) :=
  isMask_mask decide_eq_true_iff

theorem sltuSlice_isMask (w : Nat) (a b c : BitVec w) : IsMask (sltuSlice w a b c) (b.toNat < c.toNat) :=
  isMask_mask decide_eq_true_iff

theorem sleSlice_isMask (w : Nat) (a b c : BitVec w) : IsMask (sleSlice w a b c) (b.toInt ≤ c.toInt) :=
  isMask_mask decide_eq_true_iff

theorem sleuSlice_isMask (w : Nat) (a b c : BitVec w) : IsMask (sleuSlice w a b c) (b.toNat ≤ c.toNat) :=
  isMask_mask decide_eq_true_iff

theorem seq_registerB : RegisterB .seq [] seqSlice := by constructor <;> intros <;> rfl
theorem seqI_registerC : RegisterC .seqI (seqSlice 32) := by constructor <;> intros <;> rfl
theorem sne_registerB : RegisterB .sne [] sneSlice := by constructor <;> intros <;> rfl
theorem sneI_registerC : RegisterC .sneI (sneSlice 32) := by constructor <;> intros <;> rfl
theorem slt_registerB : RegisterB .slt [] sltSlice := by constructor <;> intros <;> rfl
theorem sltI_registerC : RegisterC .sltI (sltSlice 32) := by constructor <;> intros <;> rfl
theorem sltu_registerB : RegisterB .sltu [] sltuSlice := by constructor <;> intros <;> rfl
theorem sltuI_registerC : RegisterC .sltuI (sltuSlice 32) := by constructor <;> intros <;> rfl
theorem sle_registerB : RegisterB .sle [] sleSlice := by constructor <;> intros <;> rfl
theorem sleI_registerC : RegisterC .sleI (sleSlice 32) := by constructor <;> intros <;> rfl
theorem sleu_registerB : RegisterB .sleu [] sleuSlice := by constructor <;> intros <;> rfl
theorem sleuI_registerC : RegisterC .sleuI (sleuSlice 32) := by constructor <;> intros <;> rfl

/-- Settles O21: each comparison is a register instruction whose slice function is a mask. -/
theorem comparisonMasks : Obligations.ComparisonMasks :=
  ⟨seq_registerB.runs seqSlice_isMask, sne_registerB.runs sneSlice_isMask, slt_registerB.runs sltSlice_isMask,
    sltu_registerB.runs sltuSlice_isMask, sle_registerB.runs sleSlice_isMask, sleu_registerB.runs sleuSlice_isMask,
    seqI_registerC.runs (seqSlice_isMask 32), sneI_registerC.runs (sneSlice_isMask 32),
    sltI_registerC.runs (sltSlice_isMask 32), sltuI_registerC.runs (sltuSlice_isMask 32),
    sleI_registerC.runs (sleSlice_isMask 32), sleuI_registerC.runs (sleuSlice_isMask 32)⟩

/-! ### Jumps (R206, R207) -/

/-- J needs no module: it is the jump alone (R206). -/
theorem exec_j (a : Reg) (im : BitVec 21) (s : State) :
    exec (.j a im) s = .next (s.jump (jumpBase a s + immI21X4 im)) :=
  show execJ a im s = _ from gated_pass _ rfl rfl

/-- JL likewise writes LR and jumps; the base is that of the state before the write (R207). -/
theorem exec_jl (a : Reg) (im : BitVec 21) (s : State) :
    exec (.jl a im) s = .next ((s.setReg Reg.lr (s.pc + 4#32)).jump (jumpBase a s + immI21X4 im)) :=
  show execJl a im s = _ from gated_pass _ rfl rfl

/-- Settles O23: what the register write and the jump leave alone is what each reader's lemma says. -/
theorem jumps : Obligations.Jumps := by
  intro s a im
  rw [← immI21X4_eq_ofInt]
  refine ⟨exec_j a im s, _, exec_jl a im s, rfl, ?_, fun q hq => ?_, fun _ _ => rfl, fun _ => rfl, fun _ => rfl,
    rfl, rfl, rfl⟩
  · rw [jump_reg, reg_setReg]
    exact if_pos ⟨rfl, by decide⟩
  · rw [jump_reg, reg_setReg]
    exact if_neg fun h => hq h.1

/-! ### Conditional branches (R197 to R205) -/

/-- The word offset of R83 as the number it stands for. -/
theorem immI18X4_eq_ofInt (im : BitVec 18) : immI18X4 im = BitVec.ofInt 32 (4 * im.toInt) := by
  obtain ⟨-, hint, -⟩ := signExtend_append_zero_expansion im (by decide)
  rw [← hint, BitVec.ofInt_toInt, immI18X4]

/-- A branch that needs no module completes and changes pc alone, by the condition its test decides (R197). -/
theorem runBranch_completes {i : Instr} {im : BitVec 18} {test : Bool} {p : Prop} [Decidable p] {s : State}
    (hw : i.wellFormed = true) (hm : i.modules = []) (hexec : exec i s = runBranch i im test s) (h : test = true ↔ p) :
    exec i s = .next { s with pc := if p then s.pc + BitVec.ofInt 32 (4 * im.toInt) else s.pc + 4#32 } := by
  have ha : i.available s.impl = true := available_of_has (by simp [hm])
  rw [hexec, runBranch, gated_pass _ hw ha, ← immI18X4_eq_ofInt]
  by_cases hp : p
  · rw [if_pos (h.2 hp), if_pos hp, State.jump]
  · rw [if_neg (mt h.1 hp), if_neg hp, State.advance]

theorem toInt_neg_iff_msb {w : Nat} (x : BitVec w) : x.toInt < 0 ↔ x.msb = true := by
  rw [BitVec.msb_eq_toInt, decide_eq_true_iff]

theorem toInt_nonneg_iff_msb {w : Nat} (x : BitVec w) : 0 ≤ x.toInt ↔ x.msb = false := by
  rw [BitVec.msb_eq_toInt, decide_eq_false_iff_not, not_lt]

/-- Settles O22: each branch is one test of its register, which decides the condition; the two signs are read off the
top bit. -/
theorem conditionalBranches : Obligations.ConditionalBranches := fun _ _ _ =>
  ⟨runBranch_completes rfl rfl rfl beq_iff_eq, runBranch_completes rfl rfl rfl bne_iff_ne,
    runBranch_completes rfl rfl rfl beq_iff_eq, runBranch_completes rfl rfl rfl bne_iff_ne,
    runBranch_completes rfl rfl rfl (decide_eq_true_iff.trans (toInt_neg_iff_msb _)),
    runBranch_completes rfl rfl rfl (decide_eq_true_iff.trans (toInt_nonneg_iff_msb _)),
    runBranch_completes rfl rfl rfl decide_eq_true_iff, runBranch_completes rfl rfl rfl decide_eq_true_iff⟩

end Sys2Proof.Machine
end

section
/-! Bitwise logic (R215 to R219): what the negations and permutations of T make of the operands, and the instructions'
results. -/

namespace Sys2Proof.Machine

open Claims

/-! ### Register instructions on whole words -/

/-- `mk` makes the terms of a format B instruction of the base module that computes `g t` on whole elements, its field T
not naming a packed type but choosing among variants `t` of the operation (R215). -/
structure RegisterVariantsB {τ : Type} (mk : VMode → τ → Reg → Reg → Reg → Instr)
    (g : τ → Word → Word → Word → Word) : Prop where
  exec_eq : ∀ v t a b c s, exec (mk v t a b c) s = runElems (mk v t a b c) v a b (.reg c) (g t) s
  wellFormed_eq : ∀ v t a b c, (mk v t a b c).wellFormed = true
  modules_eq : ∀ v t a b c, (mk v t a b c).modules = v.needs

theorem RegisterVariantsB.completes {τ : Type} {mk : VMode → τ → Reg → Reg → Reg → Instr}
    {g : τ → Word → Word → Word → Word} (h : RegisterVariantsB mk g) {v : VMode} {s : State}
    (hr : Ready s v .word []) (t : τ) (a b c : Reg) :
    Completes (mk v t a b c) s v a fun i e => e = g t (srcA v a s i) (srcB v b s i) (srcC v c s i) := by
  have hm : (mk v t a b c).modules = [] ++ v.needs ++ Packing.word.needs :=
    (h.modules_eq v t a b c).trans (List.append_nil _).symm
  have hdone := runElems_completes hr (h.wellFormed_eq v t a b c) hm (h.exec_eq v t a b c s)
  simpa only [opC_reg_eq_srcC] using hdone

/-! ### AND, OR and XOR (R215 to R218) -/

/-- The variants that complement operand b (R215). -/
theorem Negate.onB_eq_ite (t : Negate) (b : Word) : Negate.onB t b = if t = .np ∨ t = .nn then ~~~b else b := by
  cases t <;> rfl

/-- The variants that complement operand c (R215). -/
theorem Negate.onC_eq_ite (t : Negate) (c : Word) : Negate.onC t c = if t = .pn ∨ t = .nn then ~~~c else c := by
  cases t <;> rfl

theorem and_registerVariantsB : RegisterVariantsB .and andWord := by constructor <;> intros <;> rfl
theorem andI_registerC : RegisterC .andI (andWord .pp) := by constructor <;> intros <;> rfl
theorem or_registerVariantsB : RegisterVariantsB .or orWord := by constructor <;> intros <;> rfl
theorem orI_registerC : RegisterC .orI (orWord .pp) := by constructor <;> intros <;> rfl
theorem xor_registerVariantsB : RegisterVariantsB .xor xorWord := by constructor <;> intros <;> rfl
theorem xorI_registerC : RegisterC .xorI (xorWord .pp) := by constructor <;> intros <;> rfl

/-- Settles O24: the operands as T negates them are those the model's three operations combine, and an immediate form
is the variant that negates neither. -/
theorem logicResults : Obligations.LogicResults := by
  unfold Obligations.LogicResults
  simp only [← Negate.onB_eq_ite, ← Negate.onC_eq_ite]
  exact ⟨fun _ t a b c _ hr => and_registerVariantsB.completes hr t a b c,
    fun _ t a b c _ hr => or_registerVariantsB.completes hr t a b c,
    fun _ t a b c _ hr => xor_registerVariantsB.completes hr t a b c,
    andI_registerC.runs fun _ _ _ => rfl, orI_registerC.runs fun _ _ _ => rfl, xorI_registerC.runs fun _ _ _ => rfl⟩

/-! ### SEL (R219) -/

/-- Each bit of a select is chosen by the selector's bit in the same place. -/
theorem getLsbD_bitSelect (m x y : Word) {j : Nat} (hj : j < 32) :
    (bitSelect m x y).getLsbD j = if m.getLsbD j then x.getLsbD j else y.getLsbD j := by
  rw [bitSelect, BitVec.getLsbD_or, BitVec.getLsbD_and, BitVec.getLsbD_and, BitVec.getLsbD_not]
  cases m.getLsbD j <;> simp [hj]

theorem sel_registerVariantsB : RegisterVariantsB .sel selWord := by constructor <;> intros <;> rfl
theorem selI_registerC : RegisterC .selI (selWord .p123) := by constructor <;> intros <;> rfl

/-- Settles O25: every variant is one bit select, with the operands in the order T names. -/
theorem selectResults : Obligations.SelectResults := by
  refine ⟨fun v t a b c s hr => ?_, selI_registerC.runs fun a b c j hj => getLsbD_bitSelect a b c hj⟩
  refine completes_mono (fun i e he j hj => ?_) (sel_registerVariantsB.completes hr t a b c)
  rw [he]
  cases t with
  | p123 => exact getLsbD_bitSelect (srcA v a s i) (srcB v b s i) (srcC v c s i) hj
  | p132 => exact getLsbD_bitSelect (srcA v a s i) (srcC v c s i) (srcB v b s i) hj
  | p213 => exact getLsbD_bitSelect (srcB v b s i) (srcA v a s i) (srcC v c s i) hj
  | p231 => exact getLsbD_bitSelect (srcB v b s i) (srcC v c s i) (srcA v a s i) hj

end Sys2Proof.Machine
end

section
/-! Bit manipulation and checksums (R225 to R246): what each slice function does to the bits of its operands, and the
instructions' results. -/

namespace Sys2Proof.Machine

open Claims

/-! ### Register instructions of format A, and of the widths a slice can have -/

/-- `mk` makes the terms of a format A instruction of the modules column `need` that computes `g t` on whole elements;
`packing` says what packed type, if any, its field T names (R74, R88). -/
structure RegisterA {τ : Type} (mk : VBit → τ → Reg → Reg → Instr) (packing : τ → Packing) (need : List ArchModule)
    (g : τ → Word → Word → Word → Word) : Prop where
  exec_eq : ∀ v t a b s, exec (mk v t a b) s = runElems (mk v t a b) v.mode a b .none (g t) s
  wellFormed_eq : ∀ v t a b, (mk v t a b).wellFormed = true
  modules_eq : ∀ v t a b, (mk v t a b).modules = need ++ v.mode.needs ++ (packing t).needs

theorem RegisterA.completes {τ : Type} {mk : VBit → τ → Reg → Reg → Instr} {packing : τ → Packing}
    {need : List ArchModule} {g : τ → Word → Word → Word → Word} (h : RegisterA mk packing need g) {v : VBit} {t : τ}
    {s : State} (hr : Ready s v.mode (packing t) need) (a b : Reg) :
    Completes (mk v t a b) s v.mode a fun i e => e = g t (srcA v.mode a s i) (srcB v.mode b s i) 0#32 :=
  runElems_completes hr (h.wellFormed_eq v t a b) (h.modules_eq v t a b) (h.exec_eq v t a b s)

theorem RegisterA.runs {mk : VBit → Packing → Reg → Reg → Instr} {need : List ArchModule} {f : SliceFn} {r : LaneRel}
    (h : RegisterA mk id need fun t => slices t f) (hf : ∀ w a b c, r w a b c (f w a b c)) : RunsA mk need r := by
  intro v t a b s hr
  refine completes_mono (fun k e he => ?_) (h.completes hr a b)
  rw [he]
  exact lanes_slices hf t _ _ _

/-- The slice widths are powers of two (R124). -/
theorem laneWidth_eq_two_pow (t : Packing) : ∃ n, laneWidth t = 2 ^ n := by
  cases t with
  | word => exact ⟨5, rfl⟩
  | byte => exact ⟨3, rfl⟩
  | half => exact ⟨4, rfl⟩

/-- A relation that the slice function meets where the width is a power of two holds of every slice there is. -/
theorem RegisterB.runs_of_two_pow {mk : VMode → Packing → Reg → Reg → Reg → Instr} {need : List ArchModule}
    {f : SliceFn} {r : LaneRel} (h : RegisterB mk need f)
    (hf : ∀ w, (∃ n, w = 2 ^ n) → ∀ a b c, r w a b c (f w a b c)) : RunsB mk need r := by
  intro v t a b c s hr
  have hdone := runElems_completes hr (h.wellFormed_eq v t a b c) (h.modules_eq v t a b c) (h.exec_eq v t a b c s)
  refine completes_mono (fun i e he k hk => ?_) hdone
  rw [he, opC_reg_eq_srcC, lane_slices t f _ _ _ hk]
  exact hf _ (laneWidth_eq_two_pow t) _ _ _

/-! ### The bit field control slice (R225) -/

section Control

variable {w : Nat}

/-- The mask of R225 takes the remainder modulo the slice width. -/
theorem toNat_and_width_sub_one (hw : ∃ n, w = 2 ^ n) (x : BitVec w) :
    (x &&& BitVec.ofNat w (w - 1)).toNat = x.toNat % w := by
  have hfits : w - 1 < 2 ^ w := (Nat.sub_le w 1).trans_lt Nat.lt_two_pow_self
  rw [BitVec.toNat_and, BitVec.toNat_ofNat, Nat.mod_eq_of_lt hfits]
  obtain ⟨n, hn⟩ := hw
  have hmod := Nat.and_two_pow_sub_one_eq_mod x.toNat n
  rwa [← hn] at hmod

theorem fieldOffset_eq (hw : ∃ n, w = 2 ^ n) (c : BitVec w) : fieldOffset c = offsetOf c :=
  toNat_and_width_sub_one hw c

theorem fieldWidth_eq (hw : ∃ n, w = 2 ^ n) (c : BitVec w) : fieldWidth c = widthOf c := by
  have hscale : 2 ^ (if w = 8 then 4 else 8) = if w = 8 then 16 else 256 := by split <;> rfl
  simp only [fieldWidth, widthOf, toNat_and_width_sub_one hw, BitVec.toNat_ushiftRight, Nat.shiftRight_eq_div_pow,
    hscale]

theorem widthOf_pos (hw : 0 < w) (c : BitVec w) : 0 < widthOf c := by
  have hchoice : ∀ d, 0 < if d = 0 then w else d := fun d => by split <;> omega
  exact hchoice _

end Control

/-! ### Bit fields (R226 to R229) -/

section BitField

variable {w : Nat}

theorem getLsbD_lowOnes {j : Nat} (k : Nat) (hj : j < w) : (lowOnes w k).getLsbD j = decide (j < k) := by
  rw [lowOnes, BitVec.getLsbD_ofNat, Nat.testBit_two_pow_sub_one, decide_eq_true hj, Bool.true_and]

/-- Past the top of the narrower vector, a sign extension repeats its top bit. -/
theorem getLsbD_signExtend_of_pos {n k : Nat} (hw : 0 < w) (x : BitVec w) (hk : k < n) :
    (x.signExtend n).getLsbD k = x.getLsbD (min k (w - 1)) := by
  cases w with
  | zero => exact absurd hw (Nat.lt_irrefl 0)
  | succ w => exact getLsbD_signExtend_min x hk

/-- So does an arithmetic shift to the right. -/
theorem getLsbD_sshiftRight_of_lt {k : Nat} (x : BitVec w) (o : Nat) (hk : k < w) :
    (x.sshiftRight o).getLsbD k = x.getLsbD (min (o + k) (w - 1)) := by
  rw [BitVec.getLsbD_sshiftRight, BitVec.msb_eq_getLsbD_last, decide_eq_false (Nat.not_le.2 hk), Bool.not_false,
    Bool.true_and]
  split
  · next h => rw [Nat.min_eq_left (Nat.le_sub_one_of_lt h)]
  · next h => rw [Nat.min_eq_right (by omega)]

/-- EBF is an arithmetic shift, cut to the field's width and extended again. -/
theorem ebfSlice_eq (a b c : BitVec w) :
    ebfSlice w a b c = ((b.sshiftRight (fieldOffset c)).signExtend (fieldWidth c)).signExtend w := by
  simp only [ebfSlice, BitVec.signExtend, BitVec.toInt_ofInt, BitVec.toInt_sshiftRight, Int.shiftRight_eq_div_pow,
    Nat.cast_pow, Nat.cast_ofNat]

theorem ebfSlice_bits (hw : ∃ n, w = 2 ^ n) (a b c : BitVec w) (j : Nat) (hj : j < w) :
    (ebfSlice w a b c).getLsbD j = b.getLsbD (min (offsetOf c + min j (widthOf c - 1)) (w - 1)) := by
  have hpos : 0 < w := Nat.zero_lt_of_lt hj
  have hfield : 0 < widthOf c := widthOf_pos hpos c
  have hin : min (min j (widthOf c - 1)) (w - 1) = min j (widthOf c - 1) := by omega
  rw [ebfSlice_eq, fieldOffset_eq hw, fieldWidth_eq hw, getLsbD_signExtend_of_pos hfield _ hj,
    getLsbD_signExtend_of_pos hpos _ (by omega), hin, getLsbD_sshiftRight_of_lt _ _ (by omega)]

theorem ebfuSlice_bits (hw : ∃ n, w = 2 ^ n) (a b c : BitVec w) (j : Nat) (hj : j < w) :
    (ebfuSlice w a b c).getLsbD j = (decide (j < widthOf c) && b.getLsbD (offsetOf c + j)) := by
  rw [ebfuSlice, fieldOffset_eq hw, fieldWidth_eq hw, BitVec.getLsbD_and, BitVec.getLsbD_ushiftRight,
    getLsbD_lowOnes _ hj, Bool.and_comm]

/-- A field moved to its place: nothing below the offset, and nothing past the field's top. -/
theorem getLsbD_and_lowOnes_shiftLeft (x : BitVec w) (o d : Nat) {j : Nat} (hj : j < w) :
    ((x &&& lowOnes w d) <<< o).getLsbD j = (decide (o ≤ j ∧ j < o + d) && x.getLsbD (j - o)) := by
  rw [BitVec.getLsbD_shiftLeft, BitVec.getLsbD_and, getLsbD_lowOnes d (by omega), decide_eq_true hj, Bool.true_and]
  by_cases ho : o ≤ j
  · have hd : j - o < d ↔ o ≤ j ∧ j < o + d := by omega
    rw [decide_eq_false (Nat.not_lt.2 ho), Bool.not_false, Bool.true_and, Bool.and_comm]
    simp only [hd]
  · rw [decide_eq_true (Nat.not_le.1 ho), decide_eq_false (fun h => ho h.1 : ¬(o ≤ j ∧ j < o + d))]
    rfl

theorem mkbfSlice_bits (hw : ∃ n, w = 2 ^ n) (a b c : BitVec w) (j : Nat) (hj : j < w) :
    (mkbfSlice w a b c).getLsbD j =
      (decide (offsetOf c ≤ j ∧ j < offsetOf c + widthOf c) && b.getLsbD (j - offsetOf c)) := by
  rw [mkbfSlice, fieldOffset_eq hw, fieldWidth_eq hw, getLsbD_and_lowOnes_shiftLeft _ _ _ hj]

/-- The bits of a field's place: the low ones, moved there. -/
theorem getLsbD_lowOnes_shiftLeft (o d : Nat) {j : Nat} (hj : j < w) :
    (lowOnes w d <<< o).getLsbD j = decide (o ≤ j ∧ j < o + d) := by
  rw [← BitVec.allOnes_and (x := lowOnes w d), getLsbD_and_lowOnes_shiftLeft _ _ _ hj, BitVec.getLsbD_allOnes,
    decide_eq_true (by omega : j - o < w), Bool.and_true]

theorem ibfSlice_bits (hw : ∃ n, w = 2 ^ n) (a b c : BitVec w) (j : Nat) (hj : j < w) :
    (ibfSlice w a b c).getLsbD j =
      if offsetOf c ≤ j ∧ j < offsetOf c + widthOf c then b.getLsbD (j - offsetOf c) else a.getLsbD j := by
  rw [ibfSlice, fieldOffset_eq hw, fieldWidth_eq hw, BitVec.getLsbD_or, BitVec.getLsbD_and, BitVec.getLsbD_not,
    getLsbD_and_lowOnes_shiftLeft _ _ _ hj, getLsbD_lowOnes_shiftLeft _ _ hj]
  split
  · next hin => simp [hin]
  · next hout => simp [hout, hj]

end BitField

theorem ebf_registerB : RegisterB .ebf [] ebfSlice := by constructor <;> intros <;> rfl
theorem ebfI_registerC : RegisterC .ebfI (ebfSlice 32) := by constructor <;> intros <;> rfl
theorem ebfu_registerB : RegisterB .ebfu [] ebfuSlice := by constructor <;> intros <;> rfl
theorem ebfuI_registerC : RegisterC .ebfuI (ebfuSlice 32) := by constructor <;> intros <;> rfl
theorem mkbf_registerB : RegisterB .mkbf [] mkbfSlice := by constructor <;> intros <;> rfl
theorem mkbfI_registerC : RegisterC .mkbfI (mkbfSlice 32) := by constructor <;> intros <;> rfl
theorem ibf_registerB : RegisterB .ibf [] ibfSlice := by constructor <;> intros <;> rfl
theorem ibfI_registerC : RegisterC .ibfI (ibfSlice 32) := by constructor <;> intros <;> rfl

/-- Settles O26: the control slice gives offset and width as the model masks them, and shifts and masks act bit by
bit. -/
theorem bitFieldResults : Obligations.BitFieldResults :=
  ⟨ebf_registerB.runs_of_two_pow fun _ => ebfSlice_bits, ebfu_registerB.runs_of_two_pow fun _ => ebfuSlice_bits,
    mkbf_registerB.runs_of_two_pow fun _ => mkbfSlice_bits, ibf_registerB.runs_of_two_pow fun _ => ibfSlice_bits,
    ebfI_registerC.runs (ebfSlice_bits ⟨5, rfl⟩), ebfuI_registerC.runs (ebfuSlice_bits ⟨5, rfl⟩),
    mkbfI_registerC.runs (mkbfSlice_bits ⟨5, rfl⟩), ibfI_registerC.runs (ibfSlice_bits ⟨5, rfl⟩)⟩

/-! ### SHUF (R230) -/

/-- Byte k of four bytes side by side. -/
theorem extractLsb'_append_bytes (x : Nat → Byte) {k : Nat} (hk : k < 4) :
    (x 3 ++ x 2 ++ x 1 ++ x 0 : Word).extractLsb' (8 * k) 8 = x k := by
  refine BitVec.eq_of_getLsbD_eq fun i hi => ?_
  simp only [BitVec.getLsbD_extractLsb', BitVec.getLsbD_append, hi]
  interval_cases k <;> grind

/-- A destination byte: the source byte's number is two control bits, and the fill asks for that byte's top bit. -/
theorem shufWord_bytes (a b c : Word) (k : Nat) (hk : k < 4) :
    (shufWord a b c).extractLsb' (8 * k) 8 =
      if c.getLsbD (3 * k + 2) = false then b.extractLsb' (8 * (c.toNat / 2 ^ (3 * k) % 4)) 8
      else if c.getLsbD 12 = true ∧ b.getLsbD (8 * (c.toNat / 2 ^ (3 * k) % 4) + 7) = true then 0xFF#8
      else 0x00#8 := by
  have hindex : (c.extractLsb' (3 * k) 2).toNat = c.toNat / 2 ^ (3 * k) % 4 := by
    rw [BitVec.extractLsb'_toNat, Nat.shiftRight_eq_div_pow]
  have htop : ∀ m, (b.extractLsb' m 8).getLsbD 7 = b.getLsbD (m + 7) := fun m => BitVec.getLsbD_extractLsb' ..
  rw [shufWord, extractLsb'_append_bytes (shufByte b c) hk, shufByte, hindex, htop]
  cases c.getLsbD (3 * k + 2) with
  | false => rfl
  | true => simp only [Bool.and_eq_true]; rfl

/-- SHUF has no field T (R89): there is one variant. -/
theorem shuf_registerVariantsB : RegisterVariantsB (fun v (_ : Unit) => Instr.shuf v) fun _ => shufWord := by
  constructor <;> intros <;> rfl
theorem shufI_registerC : RegisterC .shufI shufWord := by constructor <;> intros <;> rfl

/-- Settles O27: each byte of the result is one choice among the bytes of b and the two fills. -/
theorem shuffleResults : Obligations.ShuffleResults := by
  refine ⟨fun v a b c s hr => ?_, shufI_registerC.runs shufWord_bytes⟩
  refine completes_mono (fun i e he => ?_) (shuf_registerVariantsB.completes hr () a b c)
  rw [he]
  exact shufWord_bytes _ _ _

/-! ### Counting bits (R235 to R240) -/

/-- m is the number of bits, of the first n, that are equal to v before the first that is not. -/
def IsRun (bit : Nat → Bool) (v : Bool) (n m : Nat) : Prop :=
  m ≤ n ∧ (∀ j < m, bit j = v) ∧ (m < n → bit m = !v)

namespace IsRun

variable {bit : Nat → Bool} {v : Bool} {n m : Nat}

theorem none : IsRun bit v 0 0 := ⟨le_rfl, nofun, nofun⟩

theorem stop (h : bit 0 ≠ v) : IsRun bit v n 0 := ⟨n.zero_le, nofun, fun _ => Bool.eq_not.2 h⟩

theorem more (h0 : bit 0 = v) (h : IsRun (fun j => bit (j + 1)) v n m) : IsRun bit v (n + 1) (m + 1) := by
  obtain ⟨hle, hrun, hend⟩ := h
  refine ⟨Nat.succ_le_succ hle, fun j hj => ?_, fun hm => hend (Nat.lt_of_succ_lt_succ hm)⟩
  cases j with
  | zero => exact h0
  | succ j => exact hrun j (Nat.lt_of_succ_lt_succ hj)

end IsRun

section Counting

variable {w : Nat}

theorem runDown_isRun (b : BitVec w) (v : Bool) (n : Nat) :
    IsRun (fun j => b.getLsbD (n - 1 - j)) v n (runDown b v n) := by
  induction n with
  | zero => exact IsRun.none
  | succ n ih =>
    rw [runDown]
    split
    · next h =>
      refine IsRun.more h ?_
      simpa only [Nat.add_sub_cancel, Nat.sub_sub, Nat.add_comm] using ih
    · next h => exact IsRun.stop h

theorem runUp_isRun (b : BitVec w) (v : Bool) (n k : Nat) :
    IsRun (fun j => b.getLsbD (k + j)) v n (runUp b v n k) := by
  induction n generalizing k with
  | zero => exact IsRun.none
  | succ n ih =>
    rw [runUp]
    split
    · next h =>
      refine IsRun.more h ?_
      simpa only [Nat.add_assoc, Nat.add_comm 1] using ih (k + 1)
    · next h => exact IsRun.stop h

theorem runUp_zero_isRun (b : BitVec w) (v : Bool) : IsRun b.getLsbD v w (runUp b v w 0) := by
  simpa only [Nat.zero_add] using runUp_isRun b v w 0

/-- A count of a slice's bits fits in the slice. -/
theorem toNat_ofNat_of_le_width {m : Nat} (h : m ≤ w) : (BitVec.ofNat w m).toNat = m := by
  rw [BitVec.toNat_ofNat, Nat.mod_eq_of_lt (h.trans_lt Nat.lt_two_pow_self)]

theorem IsRun.ofNat {bit : Nat → Bool} {v : Bool} {m : Nat} (h : IsRun bit v w m) :
    IsRun bit v w (BitVec.ofNat w m).toNat := by
  rwa [toNat_ofNat_of_le_width h.1]

theorem onesBelow_eq_length_filter (b : BitVec w) (n : Nat) :
    onesBelow b n = ((List.range n).filter fun j => b.getLsbD j).length := by
  induction n with
  | zero => rfl
  | succ n ih =>
    rw [onesBelow, List.range_succ, List.filter_append, List.length_append, ih]
    cases h : b.getLsbD n <;> simp [h]

theorem popcntSlice_toNat (a b c : BitVec w) :
    (popcntSlice w a b c).toNat = ((List.range w).filter fun j => b.getLsbD j).length := by
  rw [popcntSlice, onesBelow_eq_length_filter]
  exact toNat_ofNat_of_le_width ((List.length_filter_le _ _).trans_eq List.length_range)

/-! ### REV (R241) -/

theorem revSlice_bits (a b c : BitVec w) (j : Nat) (hj : j < w) :
    (revSlice w a b c).getLsbD (w - 1 - j) = b.getLsbD j := by
  rw [revSlice, BitVec.getLsbD_reverse, BitVec.getLsbD_eq_getMsbD b, decide_eq_true hj, Bool.true_and]

end Counting

theorem clz_registerA : RegisterA .clz id [] fun t => slices t clzSlice := by constructor <;> intros <;> rfl
theorem ctz_registerA : RegisterA .ctz id [] fun t => slices t ctzSlice := by constructor <;> intros <;> rfl
theorem clo_registerA : RegisterA .clo id [] fun t => slices t cloSlice := by constructor <;> intros <;> rfl
theorem cto_registerA : RegisterA .cto id [] fun t => slices t ctoSlice := by constructor <;> intros <;> rfl
theorem popcnt_registerA : RegisterA .popcnt id [] fun t => slices t popcntSlice := by constructor <;> intros <;> rfl
theorem rev_registerA : RegisterA .rev id [] fun t => slices t revSlice := by constructor <;> intros <;> rfl

/-- Settles O28: the four runs are counted from the top or from the bottom, and every count fits in its slice. -/
theorem countingResults : Obligations.CountingResults :=
  ⟨clz_registerA.runs fun w _ b _ => (runDown_isRun b false w).ofNat,
    ctz_registerA.runs fun _ _ b _ => (runUp_zero_isRun b false).ofNat,
    clo_registerA.runs fun w _ b _ => (runDown_isRun b true w).ofNat,
    cto_registerA.runs fun _ _ b _ => (runUp_zero_isRun b true).ofNat,
    popcnt_registerA.runs fun _ => popcntSlice_toNat, rev_registerA.runs fun _ => revSlice_bits⟩

/-! ### CRC32C and CRC32 (R243 to R246) -/

/-- How far down the bytes that a checksum of each width takes have to be shifted, in their order (R244). -/
def crcShifts : CrcWidth → List Nat
  | .w8 => [0]
  | .w16 => [0, 8]
  | .w32 => [0, 8, 16, 24]

theorem crcBytes_eq_foldl (f : Word → Byte → Word) (t : CrcWidth) (a b : Word) :
    crcBytes f t a b = (crcShifts t).foldl (fun r k => f r ((b >>> k).setWidth 8)) a := by
  simp only [BitVec.setWidth_ushiftRight_eq_extractLsb]
  cases t <;> rfl

theorem crc32c_registerA : RegisterA .crc32c (fun _ => .word) [] crc32cWord :=
  ⟨fun _ _ _ _ _ => rfl, fun _ _ _ _ => rfl, fun v _ _ _ => (List.append_nil v.mode.needs).symm⟩
theorem crc32_registerA : RegisterA .crc32 (fun _ => .word) [] crc32Word :=
  ⟨fun _ _ _ _ _ => rfl, fun _ _ _ _ => rfl, fun v _ _ _ => (List.append_nil v.mode.needs).symm⟩

/-- Settles O29: for any step function the checksum is a fold over the bytes its width names. -/
theorem checksumResults : Obligations.ChecksumResults :=
  ⟨fun _ t a b _ hr => completes_mono (fun _ _ he => he.trans (crcBytes_eq_foldl Config.crc32cStep t _ _))
      (crc32c_registerA.completes hr a b),
    fun _ t a b _ hr => completes_mono (fun _ _ he => he.trans (crcBytes_eq_foldl Config.crc32Step t _ _))
      (crc32_registerA.completes hr a b)⟩

end Sys2Proof.Machine
end

section
/-! Floating-point encodings (R250, R251, R253): their fields, their classes, and their values as rationals. -/

namespace Sys2Proof.Machine

open Claims

/-! ### The three formats -/

/-- The widths that are floating-point formats: float8, float16 and float32 (R250, R251). -/
def IsFormat (w : Nat) : Prop := w = 8 ∨ w = 16 ∨ w = 32

/-- Every slice is of a format's width (R124). -/
theorem isFormat_laneWidth (t : Packing) : IsFormat (laneWidth t) := by
  cases t with
  | word => exact .inr (.inr rfl)
  | byte => exact .inl rfl
  | half => exact .inr (.inl rfl)

namespace IsFormat

variable {w : Nat}

/-- A sign bit, the exponent field and the fraction field fill the width. -/
theorem width_eq (hw : IsFormat w) : w = fpExpBits w + fpFracBits w + 1 := by
  obtain rfl | rfl | rfl := hw <;> rfl

/-- The exponent field as the statements write its width. -/
theorem expBits_eq (hw : IsFormat w) : w - 1 - fpFracBits w = fpExpBits w := by
  obtain rfl | rfl | rfl := hw <;> rfl

theorem bias_eq (hw : IsFormat w) : bias w = fpBias w := by
  obtain rfl | rfl | rfl := hw <;> rfl

theorem fpSign_eq_msb (hw : IsFormat w) (x : BitVec w) : fpSign x = x.msb := by
  rw [BitVec.msb_eq_getLsbD_last, fpSign]
  congr 1
  exact Nat.eq_sub_of_add_eq hw.width_eq.symm

end IsFormat

theorem fracBits_eq (w : Nat) : fracBits w = fpFracBits w := rfl

theorem fpFrac_lt {w : Nat} (x : BitVec w) : fpFrac x < 2 ^ fpFracBits w := Nat.mod_lt _ (by positivity)

theorem fpExp_lt {w : Nat} (x : BitVec w) : fpExp x < 2 ^ fpExpBits w := Nat.mod_lt _ (by positivity)

/-- An encoding is made of its three fields. -/
theorem fpCode_fields {w : Nat} (hw : IsFormat w) (x : BitVec w) : fpCode w (fpSign x) (fpExp x) (fpFrac x) = x := by
  apply BitVec.eq_of_toNat_eq
  rw [hw.fpSign_eq_msb, BitVec.msb_eq_decide, fpCode, BitVec.toNat_ofNat, fpExp, fpFrac]
  have hx := x.isLt
  obtain rfl | rfl | rfl := hw <;> simp [fpExpBits, fpFracBits] <;> split <;> omega

/-! ### Classes (R253, R256) -/

/-- The IEEE 754 pattern, said of the two fields as bit vectors (R250, R253). -/
theorem ieeeClass_eq_fields {w : Nat} (x : BitVec w) :
    ieeeClass x = if x.extractLsb' (fpFracBits w) (fpExpBits w) ≠ BitVec.allOnes (fpExpBits w) then .finite
      else if x.extractLsb' 0 (fpFracBits w) = 0#(fpFracBits w) then .inf else .nan := by
  have hexp : x.extractLsb' (fpFracBits w) (fpExpBits w) = BitVec.allOnes (fpExpBits w) ↔
      fpExp x = 2 ^ fpExpBits w - 1 := by
    rw [← BitVec.toNat_inj, BitVec.extractLsb'_toNat, BitVec.toNat_allOnes, Nat.shiftRight_eq_div_pow, fpExp]
  have hfrac : x.extractLsb' 0 (fpFracBits w) = 0#(fpFracBits w) ↔ fpFrac x = 0 := by
    rw [← BitVec.toNat_inj, BitVec.extractLsb'_toNat, BitVec.toNat_zero, Nat.shiftRight_zero, fpFrac]
  simp only [ieeeClass, ne_eq, ite_not, hexp, hfrac]

theorem fpClass_of_ne_byte (p : Impl) {w : Nat} (hw : w ≠ 8) (x : BitVec w) : fpClass p x = ieeeClass x := if_neg hw

/-- A float8 encoding that F8Special does not list (R256). -/
theorem fpClass_byte_unlisted (p : Impl) (x : Byte) (h : ∀ c ∈ p.f8Class, c.1 ≠ x) : fpClass p x = ieeeClass x := by
  have hnone : (p.f8Class.find? fun c => c.1.toNat == x.toNat) = none := by
    refine List.find?_eq_none.2 fun c hc heq => h c hc ?_
    exact BitVec.eq_of_toNat_eq (beq_iff_eq.1 heq)
  simp only [fpClass, hnone, if_true]

/-- The first entry of F8Special for a float8 encoding (R256). -/
theorem fpClass_byte_listed (p : Impl) (x : Byte) {l l' : List (Byte × FpClass)} {k : FpClass}
    (hl : p.f8Class = l ++ (x, k) :: l') (h : ∀ c ∈ l, c.1 ≠ x) : fpClass p x = k := by
  have hsome : (p.f8Class.find? fun c => c.1.toNat == x.toNat) = some (x, k) := by
    refine List.find?_eq_some_iff_append.2 ⟨beq_self_eq_true _, l, l', hl, fun c hc => ?_⟩
    simpa [BitVec.toNat_inj] using h c hc
  simp only [fpClass, hsome, if_true]

/-- Settles O34: the two fields decide, unless the table of float8 has the encoding. -/
theorem floatClasses : Obligations.FloatClasses := fun p =>
  ⟨fun x => (fpClass_of_ne_byte p (by decide) x).trans (ieeeClass_eq_fields x),
    fun x => (fpClass_of_ne_byte p (by decide) x).trans (ieeeClass_eq_fields x),
    fun x h => (fpClass_byte_unlisted p x h).trans (ieeeClass_eq_fields x),
    fun x _ _ _ => fpClass_byte_listed p x⟩

theorem bothFinite_iff {p : Impl} {w : Nat} {b c : BitVec w} :
    bothFinite p b c = true ↔ fpClass p b = .finite ∧ fpClass p c = .finite := by
  rw [bothFinite, Bool.and_eq_true, beq_iff_eq, beq_iff_eq]

/-! ### Exact values as rationals -/

/-- The number `man · 2^exp`. -/
def FpVal.toRat (x : FpVal) : ℚ := x.man * 2 ^ x.exp

namespace FpVal

/-- Lowering the exponent does not change the number. -/
theorem at_mul_zpow (x : FpVal) {e : Int} (he : e ≤ x.exp) : (x.at e : ℚ) * 2 ^ e = x.toRat := by
  have hsplit : x.exp = ((x.exp - e).toNat : Int) + e := by omega
  rw [FpVal.at, toRat, Int.cast_mul, Int.cast_pow, Int.cast_ofNat, mul_assoc, ← zpow_natCast,
    ← zpow_add₀ two_ne_zero, ← hsplit]

theorem toRat_add (x y : FpVal) : (x.add y).toRat = x.toRat + y.toRat := by
  rw [← x.at_mul_zpow (min_le_left x.exp y.exp), ← y.at_mul_zpow (min_le_right x.exp y.exp), ← add_mul,
    ← Int.cast_add]
  rfl

theorem toRat_sub (x y : FpVal) : (x.sub y).toRat = x.toRat - y.toRat := by
  rw [← x.at_mul_zpow (min_le_left x.exp y.exp), ← y.at_mul_zpow (min_le_right x.exp y.exp), ← sub_mul,
    ← Int.cast_sub]
  rfl

theorem toRat_mul (x y : FpVal) : (x.mul y).toRat = x.toRat * y.toRat := by
  simp only [toRat, FpVal.mul, Int.cast_mul, zpow_add₀ (two_ne_zero (α := ℚ))]
  ring

theorem toRat_eq_zero_iff (x : FpVal) : x.toRat = 0 ↔ x.man = 0 := by
  rw [toRat, mul_eq_zero_iff_right (zpow_ne_zero _ two_ne_zero), Int.cast_eq_zero]

theorem lt_iff (x y : FpVal) : x.lt y = true ↔ x.toRat < y.toRat := by
  rw [FpVal.lt, decide_eq_true_iff, ← x.at_mul_zpow (min_le_left x.exp y.exp),
    ← y.at_mul_zpow (min_le_right x.exp y.exp), mul_lt_mul_iff_left₀ (by positivity), Int.cast_lt]

theorem eq_iff (x y : FpVal) : x.eq y = true ↔ x.toRat = y.toRat := by
  rw [FpVal.eq, decide_eq_true_iff, ← x.at_mul_zpow (min_le_left x.exp y.exp),
    ← y.at_mul_zpow (min_le_right x.exp y.exp), mul_left_inj' (zpow_ne_zero _ two_ne_zero), Int.cast_inj]

end FpVal

/-- The significand of an encoding as an integer: with the hidden bit unless E = 0 (R250, R251). -/
def significand {w : Nat} (x : BitVec w) : Nat := if fpExp x = 0 then fpFrac x else 2 ^ fpFracBits w + fpFrac x

theorem fpVal_man {w : Nat} (x : BitVec w) :
    (fpVal x).man = if fpSign x then -(significand x : Int) else significand x := by
  simp only [fpVal, significand]
  split <;> push_cast <;> rfl

theorem fpVal_natAbs_man {w : Nat} (x : BitVec w) : (fpVal x).man.natAbs = significand x := by
  rw [fpVal_man]
  split
  · rw [Int.natAbs_neg, Int.natAbs_natCast]
  · exact Int.natAbs_natCast _

theorem significand_lt {w : Nat} (x : BitVec w) : significand x < 2 ^ (fpFracBits w + 1) := by
  have hf := fpFrac_lt x
  rw [significand, pow_succ]
  split <;> omega

/-- The value of R250 and R251, said of the model's fields. -/
theorem fpReal_eq_fields {w : Nat} (hw : IsFormat w) (x : BitVec w) :
    fpReal x = (if fpSign x then -1 else 1) *
      if fpExp x = 0 then (fpFrac x : ℚ) / 2 ^ fpFracBits w * 2 ^ (1 - fpBias w)
      else (1 + (fpFrac x : ℚ) / 2 ^ fpFracBits w) * 2 ^ ((fpExp x : Int) - fpBias w) := by
  rw [fpReal, fracBits_eq, hw.expBits_eq, hw.bias_eq, hw.fpSign_eq_msb]
  rfl

/-- That value is the integer times the power of two that the model computes with. -/
theorem fpReal_eq_toRat {w : Nat} (hw : IsFormat w) (x : BitVec w) : fpReal x = (fpVal x).toRat := by
  have hsign : (fpVal x).toRat = (if fpSign x then -1 else 1) * ((significand x : ℚ) * 2 ^ (fpVal x).exp) := by
    rw [FpVal.toRat, fpVal_man]
    split <;> push_cast <;> ring
  rw [hsign, fpReal_eq_fields hw, significand]
  simp only [fpVal]
  congr 1
  split
  · rw [zpow_sub₀ two_ne_zero _ (fpFracBits w : Int), zpow_natCast]
    ring
  · rw [zpow_sub₀ two_ne_zero _ (fpFracBits w : Int), zpow_natCast]
    push_cast
    field_simp

theorem fpReal_eq_zero_iff {w : Nat} (hw : IsFormat w) (x : BitVec w) : fpReal x = 0 ↔ (fpVal x).man = 0 := by
  rw [fpReal_eq_toRat hw, FpVal.toRat_eq_zero_iff]

end Sys2Proof.Machine
end

section
/-! Floating-point order (R262 to R270, D11): the model's comparisons are those of extended reals, and the instructions
that only compare. -/

namespace Sys2Proof.Machine

open Claims

/-! ### Floating-point register instructions -/

/-- A completed instruction whose elements are computed slice by slice meets, slice by slice, what its slice function
meets at the width of its packed type. -/
theorem completes_lanes {i : Instr} {s : State} {v : VMode} {d : Reg} {t : Packing} {f : SliceFn} {r : LaneRel}
    {x y z : Nat → Word} (hf : ∀ a b c, r (laneWidth t) a b c (f (laneWidth t) a b c))
    (h : Completes i s v d fun k e => e = slices t f (x k) (y k) (z k)) :
    Completes i s v d fun k e => Lanes t r (x k) (y k) (z k) e := by
  refine completes_mono (fun k e he l hl => ?_) h
  rw [he, lane_slices t f _ _ _ hl]
  exact hf _ _ _

/-- `mk` makes the terms of a format B instruction of the floating-point module that computes `f p` on each slice under
the implementation p. -/
structure RegisterF (mk : VMode → Packing → Reg → Reg → Reg → Instr) (f : Impl → SliceFn) : Prop where
  exec_eq : ∀ v t a b c s, exec (mk v t a b c) s = runElems (mk v t a b c) v a b (.reg c) (slices t (f s.impl)) s
  wellFormed_eq : ∀ v t a b c, (mk v t a b c).wellFormed = true
  modules_eq : ∀ v t a b c, (mk v t a b c).modules = [.fm] ++ v.needs ++ t.needs

theorem RegisterF.runs {mk : VMode → Packing → Reg → Reg → Reg → Instr} {f : Impl → SliceFn} {r : Impl → LaneRel}
    (h : RegisterF mk f) (hf : ∀ p w, IsFormat w → ∀ a b c, r p w a b c (f p w a b c)) : RunsF mk [.fm] r := by
  intro v t a b c s hr
  have hdone := runElems_completes hr (h.wellFormed_eq v t a b c) (h.modules_eq v t a b c) (h.exec_eq v t a b c s)
  simp only [opC_reg_eq_srcC] at hdone
  exact completes_lanes (hf s.impl _ (isFormat_laneWidth t)) hdone

/-! ### Extended reals -/

section Order

variable {p : Impl} {w : Nat} {x y : BitVec w}

theorem extReal_of_finite (hw : IsFormat w) (h : fpClass p x = .finite) :
    extReal p x = (((fpVal x).toRat : WithTop ℚ) : WithBot (WithTop ℚ)) := by
  rw [extReal, if_neg (by simp [h]), fpReal_eq_toRat hw]

theorem extReal_of_inf (hw : IsFormat w) (h : fpClass p x = .inf) :
    extReal p x = if fpSign x then ⊥ else ((⊤ : WithTop ℚ) : WithBot (WithTop ℚ)) := by
  rw [extReal, if_pos h, hw.fpSign_eq_msb]

theorem ratCast_lt_infinity (q : ℚ) : ((q : WithTop ℚ) : WithBot (WithTop ℚ)) < ⊤ :=
  WithBot.coe_lt_coe.2 (WithTop.coe_lt_top q)

/-- An encoding is a NaN or one of the two kinds of extended reals. -/
theorem fpClass_cases (p : Impl) (x : BitVec w) : fpClass p x = .finite ∨ fpClass p x = .inf ∨ fpClass p x = .nan := by
  cases fpClass p x <;> simp

/-- The model's order is that of the extended reals, and no NaN is below or above anything (R264, D11). -/
theorem fpLt_iff (hw : IsFormat w) :
    fpLt p x y = true ↔ fpIsNan p x = false ∧ fpIsNan p y = false ∧ extReal p x < extReal p y := by
  obtain hx | hx | hx := fpClass_cases p x
  · obtain hy | hy | hy := fpClass_cases p y
    · simp [fpLt, hx, hy, fpIsNan, extReal_of_finite hw, FpVal.lt_iff]
    · cases hs : fpSign y <;>
        simp [fpLt, hx, hy, fpIsNan, extReal_of_finite hw, extReal_of_inf hw, hs, ratCast_lt_infinity]
    · simp [fpLt, hx, hy, fpIsNan]
  · obtain hy | hy | hy := fpClass_cases p y
    · cases hs : fpSign x <;> simp [fpLt, hx, hy, fpIsNan, extReal_of_finite hw, extReal_of_inf hw, hs]
    · cases hs : fpSign x <;> cases ht : fpSign y <;> simp [fpLt, hx, hy, fpIsNan, extReal_of_inf hw, hs, ht]
    · simp [fpLt, hx, hy, fpIsNan]
  · simp [fpLt, hx, fpIsNan]

/-- So is its equality (R264, D11). -/
theorem fpEq_iff (hw : IsFormat w) :
    fpEq p x y = true ↔ fpIsNan p x = false ∧ fpIsNan p y = false ∧ extReal p x = extReal p y := by
  obtain hx | hx | hx := fpClass_cases p x
  · obtain hy | hy | hy := fpClass_cases p y
    · simp [fpEq, hx, hy, fpIsNan, extReal_of_finite hw, FpVal.eq_iff]
    · cases hs : fpSign y <;> simp [fpEq, hx, hy, fpIsNan, extReal_of_finite hw, extReal_of_inf hw, hs]
    · simp [fpEq, hx, hy, fpIsNan]
  · obtain hy | hy | hy := fpClass_cases p y
    · cases hs : fpSign x <;> simp [fpEq, hx, hy, fpIsNan, extReal_of_finite hw, extReal_of_inf hw, hs]
    · cases hs : fpSign x <;> cases ht : fpSign y <;> simp [fpEq, hx, hy, fpIsNan, extReal_of_inf hw, hs, ht]
    · simp [fpEq, hx, hy, fpIsNan]
  · simp [fpEq, hx, fpIsNan]

end Order

/-! ### The smaller and the larger operand (R262, R263) -/

/-- What a choice between b and c by the order of their ranks x and y gives on either side, and on equal ranks. -/
theorem choice_by_order {α β : Type} [DecidableEq α] [LinearOrder β] {x y : β} {b c less greater z e : α}
    (hrank : b = c → x = y) (he : e = if x < y then less else if y < x then greater else if b = c then b else z) :
    (x < y → e = less) ∧ (y < x → e = greater) ∧ (b = c → e = b) ∧ (x = y → b ≠ c → e = z) := by
  refine ⟨fun h => ?_, fun h => ?_, fun h => ?_, fun h hbc => ?_⟩
  · rw [he, if_pos h]
  · rw [he, if_neg h.not_gt, if_pos h]
  · rw [he, if_neg (hrank h).not_lt, if_neg (hrank h).not_gt, if_pos h]
  · rw [he, if_neg h.not_lt, if_neg h.not_gt, if_neg hbc]

/-- On operands that are not NaN, the model's order decides between extended reals. -/
theorem fpLt_iff_of_ordered {p : Impl} {w : Nat} (hw : IsFormat w) {x y : BitVec w}
    (h : ¬(fpIsNan p x = true ∨ fpIsNan p y = true)) : fpLt p x y = true ↔ extReal p x < extReal p y := by
  rw [not_or, Bool.not_eq_true, Bool.not_eq_true] at h
  rw [fpLt_iff hw, and_iff_right h.1, and_iff_right h.2]

theorem fminSlice_result (p : Impl) {w : Nat} (hw : IsFormat w) (a b c : BitVec w) :
    if fpIsNan p b = true ∨ fpIsNan p c = true then fminSlice p w a b c = Config.fpSpecial .fmin w b c
    else (extReal p b < extReal p c → fminSlice p w a b c = b) ∧ (extReal p c < extReal p b → fminSlice p w a b c = c) ∧
      (b = c → fminSlice p w a b c = b) ∧
      (extReal p b = extReal p c → b ≠ c → fminSlice p w a b c = Config.fpSpecial .fmin w b c) := by
  simp only [fminSlice, Bool.or_eq_true]
  split
  · rfl
  · next h =>
    simp only [fpLt_iff_of_ordered hw h, fpLt_iff_of_ordered hw (mt Or.symm h)]
    exact choice_by_order (congrArg (extReal p)) rfl

theorem fmaxSlice_result (p : Impl) {w : Nat} (hw : IsFormat w) (a b c : BitVec w) :
    if fpIsNan p b = true ∨ fpIsNan p c = true then fmaxSlice p w a b c = Config.fpSpecial .fmax w b c
    else (extReal p b < extReal p c → fmaxSlice p w a b c = c) ∧ (extReal p c < extReal p b → fmaxSlice p w a b c = b) ∧
      (b = c → fmaxSlice p w a b c = b) ∧
      (extReal p b = extReal p c → b ≠ c → fmaxSlice p w a b c = Config.fpSpecial .fmax w b c) := by
  simp only [fmaxSlice, Bool.or_eq_true]
  split
  · rfl
  · next h =>
    simp only [fpLt_iff_of_ordered hw h, fpLt_iff_of_ordered hw (mt Or.symm h)]
    obtain ⟨hgt, hlt, hsame, htie⟩ := choice_by_order (fun hbc => congrArg (extReal p) hbc.symm) rfl
    exact ⟨hlt, hgt, hsame, fun hreal => htie hreal.symm⟩

theorem fmin_registerF : RegisterF .fmin fminSlice := by constructor <;> intros <;> rfl
theorem fmax_registerF : RegisterF .fmax fmaxSlice := by constructor <;> intros <;> rfl

/-- Settles O32: once NaN is out of the way the model's order is a linear one. -/
theorem floatMinMax : Obligations.FloatMinMax :=
  ⟨fmin_registerF.runs fun p _ hw => fminSlice_result p hw, fmax_registerF.runs fun p _ hw => fmaxSlice_result p hw⟩

/-! ### Comparisons (R264 to R270) -/

section Comparison

variable (p : Impl) {w : Nat} (hw : IsFormat w) (a b c : BitVec w)

include hw

theorem fseqSlice_isMask : IsMask (fseqSlice p w a b c)
    (fpIsNan p b = false ∧ fpIsNan p c = false ∧ extReal p b = extReal p c) :=
  isMask_mask (fpEq_iff hw)

theorem fsneSlice_isMask : IsMask (fsneSlice p w a b c)
    (¬(fpIsNan p b = false ∧ fpIsNan p c = false ∧ extReal p b = extReal p c)) :=
  isMask_mask (by rw [Bool.not_eq_true', ← Bool.not_eq_true, fpEq_iff hw])

theorem fsltSlice_isMask : IsMask (fsltSlice p w a b c)
    (fpIsNan p b = false ∧ fpIsNan p c = false ∧ extReal p b < extReal p c) :=
  isMask_mask (fpLt_iff hw)

theorem fsleSlice_isMask : IsMask (fsleSlice p w a b c)
    (fpIsNan p b = false ∧ fpIsNan p c = false ∧ extReal p b ≤ extReal p c) :=
  isMask_mask (by rw [Bool.or_eq_true, fpLt_iff hw, fpEq_iff hw, ← and_or_left, ← and_or_left, ← le_iff_lt_or_eq])

end Comparison

theorem fsunordSlice_isMask (p : Impl) (w : Nat) (a b c : BitVec w) :
    IsMask (fsunordSlice p w a b c) (fpIsNan p b = true ∨ fpIsNan p c = true) :=
  isMask_mask (by rw [Bool.or_eq_true])

theorem fsordSlice_isMask (p : Impl) (w : Nat) (a b c : BitVec w) :
    IsMask (fsordSlice p w a b c) (fpIsNan p b = false ∧ fpIsNan p c = false) :=
  isMask_mask (by rw [Bool.and_eq_true, Bool.not_eq_true', Bool.not_eq_true'])

theorem fseq_registerF : RegisterF .fseq fseqSlice := by constructor <;> intros <;> rfl
theorem fsne_registerF : RegisterF .fsne fsneSlice := by constructor <;> intros <;> rfl
theorem fslt_registerF : RegisterF .fslt fsltSlice := by constructor <;> intros <;> rfl
theorem fsle_registerF : RegisterF .fsle fsleSlice := by constructor <;> intros <;> rfl
theorem fsunord_registerF : RegisterF .fsunord fsunordSlice := by constructor <;> intros <;> rfl
theorem fsord_registerF : RegisterF .fsord fsordSlice := by constructor <;> intros <;> rfl

/-- Settles O33: each comparison is the mask of a test that decides the relation of the extended reals. -/
theorem floatComparisonMasks : Obligations.FloatComparisonMasks :=
  ⟨fseq_registerF.runs fun p _ hw => fseqSlice_isMask p hw, fsne_registerF.runs fun p _ hw => fsneSlice_isMask p hw,
    fslt_registerF.runs fun p _ hw => fsltSlice_isMask p hw, fsle_registerF.runs fun p _ hw => fsleSlice_isMask p hw,
    fsunord_registerF.runs fun p w _ => fsunordSlice_isMask p w,
    fsord_registerF.runs fun p w _ => fsordSlice_isMask p w⟩

end Sys2Proof.Machine
end

section
/-! FpRound as a function of the real (R252, D10): equal reals have one `ExactReal`, so rounding can be said of a
rational; and an encoding is what its own value rounds to. -/

namespace Sys2Proof.Machine

open Claims

/-! ### Powers of two in a number -/

theorem countTwos_spec {k n : Nat} (hpos : 0 < n) (hlt : n < 2 ^ (k + 1)) : ∃ m, Odd m ∧ n = m * 2 ^ countTwos k n := by
  induction k generalizing n with
  | zero => exact ⟨1, odd_one, by simp only [countTwos]; omega⟩
  | succ k ih =>
    rw [countTwos]
    split
    · next heven =>
      obtain ⟨m, hodd, hm⟩ := ih (n := n / 2) (by omega) (by rw [pow_succ] at hlt; omega)
      refine ⟨m, hodd, ?_⟩
      rw [pow_succ, ← mul_assoc, ← hm]
      omega
    · next hodd => exact ⟨n, Nat.odd_iff.2 (by omega), by rw [pow_zero, mul_one]⟩

/-- What is left of a number without its factors of two. -/
def oddPart (n : Nat) : Nat := n / 2 ^ twos n

theorem odd_oddPart_and_mul {n : Nat} (h : n ≠ 0) : Odd (oddPart n) ∧ oddPart n * 2 ^ twos n = n := by
  obtain ⟨m, hodd, hm⟩ := countTwos_spec (Nat.pos_of_ne_zero h) Nat.lt_log2_self
  have hpart : oddPart n = m := by
    rw [oddPart]
    exact Nat.div_eq_of_eq_mul_left (by positivity) hm
  exact ⟨hpart ▸ hodd, hpart ▸ hm.symm⟩

theorem odd_oddPart {n : Nat} (h : n ≠ 0) : Odd (oddPart n) := (odd_oddPart_and_mul h).1

theorem oddPart_mul_two_pow {n : Nat} (h : n ≠ 0) : oddPart n * 2 ^ twos n = n := (odd_oddPart_and_mul h).2

theorem oddPart_dvd {n : Nat} (h : n ≠ 0) : oddPart n ∣ n := ⟨_, (oddPart_mul_two_pow h).symm⟩

theorem log2_eq_log2_oddPart_add {n : Nat} (h : n ≠ 0) : n.log2 = (oddPart n).log2 + twos n := by
  have hpart : oddPart n ≠ 0 := (odd_oddPart h).pos.ne'
  rw [Nat.log2_eq_iff h, Nat.add_right_comm, pow_add, pow_add]
  constructor
  · calc 2 ^ (oddPart n).log2 * 2 ^ twos n ≤ oddPart n * 2 ^ twos n :=
          Nat.mul_le_mul_right _ (Nat.log2_self_le hpart)
      _ = n := oddPart_mul_two_pow h
  · calc n = oddPart n * 2 ^ twos n := (oddPart_mul_two_pow h).symm
      _ < 2 ^ ((oddPart n).log2 + 1) * 2 ^ twos n := Nat.mul_lt_mul_of_pos_right Nat.lt_log2_self (by positivity)

/-- An odd number times a power of two determines both. -/
theorem odd_mul_zpow_inj {a b : Nat} (ha : Odd a) (hb : Odd b) {e e' : Int}
    (h : (a : ℚ) * 2 ^ e = b * 2 ^ e') : a = b ∧ e = e' := by
  wlog hle : e ≤ e' generalizing a b e e'
  · exact (this hb ha h.symm (by omega)).imp Eq.symm Eq.symm
  obtain ⟨k, rfl⟩ := Int.le.dest hle
  have hk : a = b * 2 ^ k := by
    rw [zpow_add₀ two_ne_zero, zpow_natCast, mul_comm ((2 : ℚ) ^ e), ← mul_assoc,
      mul_left_inj' (zpow_ne_zero _ two_ne_zero)] at h
    exact_mod_cast h
  cases k with
  | zero => exact ⟨by simpa using hk, by simp⟩
  | succ k =>
    refine absurd ha (Nat.not_odd_iff_even.2 ?_)
    exact hk ▸ (even_two.pow_of_ne_zero k.succ_ne_zero).mul_left b

/-! ### The one form of a real -/

/-- The real that a normal form stands for. -/
def toRational (r : ExactReal) : ℚ := (if r.neg then -1 else 1) * ((r.num : ℚ) / r.den * 2 ^ r.exp)

/-- Lowest terms with both terms odd. -/
structure IsReduced (r : ExactReal) : Prop where
  num_odd : Odd r.num
  den_odd : Odd r.den
  coprime : Nat.Coprime r.num r.den

theorem IsReduced.magnitude_pos {r : ExactReal} (h : IsReduced r) : 0 < (r.num : ℚ) / r.den * 2 ^ r.exp := by
  have hn : (0 : ℚ) < r.num := Nat.cast_pos.2 h.num_odd.pos
  have hd : (0 : ℚ) < r.den := Nat.cast_pos.2 h.den_odd.pos
  positivity

/-- The sign of a reduced form is the sign of its real. -/
theorem IsReduced.neg_iff {r : ExactReal} (h : IsReduced r) : r.neg = true ↔ toRational r < 0 := by
  have hpos := h.magnitude_pos
  rw [toRational]
  cases r.neg
  · simpa using hpos.le
  · simpa using hpos

theorem IsReduced.abs_toRational {r : ExactReal} (h : IsReduced r) :
    |toRational r| = (r.num : ℚ) / r.den * 2 ^ r.exp := by
  rw [toRational, abs_mul, abs_of_pos h.magnitude_pos]
  cases r.neg <;> simp

/-- Equal reals have equal reduced forms. -/
theorem IsReduced.eq_of_toRational_eq {r r' : ExactReal} (h : IsReduced r) (h' : IsReduced r')
    (heq : toRational r = toRational r') : r = r' := by
  have hd : (r.den : ℚ) ≠ 0 := Nat.cast_ne_zero.2 h.den_odd.pos.ne'
  have hd' : (r'.den : ℚ) ≠ 0 := Nat.cast_ne_zero.2 h'.den_odd.pos.ne'
  have hneg : r.neg = r'.neg := by rw [Bool.eq_iff_iff, h.neg_iff, h'.neg_iff, heq]
  have hcross : ((r.num * r'.den : Nat) : ℚ) * 2 ^ r.exp = (r'.num * r.den : Nat) * 2 ^ r'.exp := by
    have hmag := h.abs_toRational.symm.trans ((congrArg abs heq).trans h'.abs_toRational)
    push_cast
    field_simp at hmag
    linarith
  obtain ⟨hterms, hexp⟩ := odd_mul_zpow_inj (h.num_odd.mul h'.den_odd) (h'.num_odd.mul h.den_odd) hcross
  have hnum : r.num = r'.num := Nat.dvd_antisymm
    (h.coprime.dvd_of_dvd_mul_right ⟨_, hterms.symm⟩) (h'.coprime.dvd_of_dvd_mul_right ⟨_, hterms⟩)
  have hden : r'.den = r.den := Nat.eq_of_mul_eq_mul_left h.num_odd.pos (hterms.trans (by rw [hnum]))
  cases r
  cases r'
  simp only [ExactReal.mk.injEq]
  exact ⟨hneg, hnum, hden.symm, hexp⟩

section ExactReal

variable {man : Int} {den : Nat} (hman : man ≠ 0) (hden : den ≠ 0) (exp : Int)

include hman hden

theorem lowest_terms_ne_zero :
    man.natAbs / man.natAbs.gcd den ≠ 0 ∧ den / man.natAbs.gcd den ≠ 0 := by
  have hgcd : man.natAbs.gcd den ≠ 0 := Nat.gcd_ne_zero_right hden
  exact ⟨(Nat.div_ne_zero_iff_of_dvd (Nat.gcd_dvd_left ..)).2 ⟨Int.natAbs_ne_zero.2 hman, hgcd⟩,
    (Nat.div_ne_zero_iff_of_dvd (Nat.gcd_dvd_right ..)).2 ⟨hden, hgcd⟩⟩

theorem exactReal_isReduced : IsReduced (exactReal man den exp) := by
  obtain ⟨hn, hd⟩ := lowest_terms_ne_zero hman hden
  have hgcd : 0 < man.natAbs.gcd den := Nat.gcd_pos_of_pos_right _ (Nat.pos_of_ne_zero hden)
  exact ⟨odd_oddPart hn, odd_oddPart hd,
    (Nat.coprime_div_gcd_div_gcd hgcd).of_dvd (oddPart_dvd hn) (oddPart_dvd hd)⟩

theorem toRational_exactReal : toRational (exactReal man den exp) = (man : ℚ) / den * 2 ^ exp := by
  obtain ⟨hn, hd⟩ := lowest_terms_ne_zero hman hden
  have hterms : (man.natAbs : ℚ) / den =
      (oddPart (man.natAbs / man.natAbs.gcd den) * 2 ^ twos (man.natAbs / man.natAbs.gcd den)) /
        (oddPart (den / man.natAbs.gcd den) * 2 ^ twos (den / man.natAbs.gcd den)) := by
    rw [← Nat.cast_div_div_div_cancel_right (Nat.gcd_dvd_right ..) (Nat.gcd_dvd_left ..)]
    conv_lhs => rw [← oddPart_mul_two_pow hn, ← oddPart_mul_two_pow hd]
    push_cast
    rfl
  have hsign : (man : ℚ) = (if decide (man < 0) then -1 else 1) * (man.natAbs : ℚ) := by
    rw [Nat.cast_natAbs, Int.cast_abs]
    split
    · next h => rw [abs_of_neg (Int.cast_lt_zero.2 (of_decide_eq_true h)), neg_one_mul, neg_neg]
    · next h => rw [abs_of_nonneg (Int.cast_nonneg (by simpa using h)), one_mul]
  have hpow : (2 : ℚ) ^ (exactReal man den exp).exp = 2 ^ exp * 2 ^ twos (man.natAbs / man.natAbs.gcd den) /
      2 ^ twos (den / man.natAbs.gcd den) := by
    rw [exactReal, zpow_sub₀ two_ne_zero, zpow_add₀ two_ne_zero, zpow_natCast, zpow_natCast]
  rw [hsign, mul_div_assoc, hterms, toRational, hpow, mul_assoc]
  change _ * ((oddPart _ : ℚ) / oddPart _ * _) = _
  congr 1
  ring

end ExactReal

/-- The form of a real is determined by the real, whatever fraction and power of two it is computed from. -/
theorem exactReal_eq_of_real {man : Int} {den : Nat} {exp : Int} {q : ℚ} (hden : den ≠ 0)
    (hq : (man : ℚ) / den * 2 ^ exp = q) (h0 : q ≠ 0) : exactReal man den exp = exactReal q.num q.den 0 := by
  have hman : man ≠ 0 := by
    rintro rfl
    simp [← hq] at h0
  refine (exactReal_isReduced hman hden exp).eq_of_toRational_eq
    (exactReal_isReduced (Rat.num_ne_zero.2 h0) q.den_ne_zero 0) ?_
  rw [toRational_exactReal hman hden, toRational_exactReal (Rat.num_ne_zero.2 h0) q.den_ne_zero, hq, zpow_zero,
    mul_one, Rat.num_div_den]

/-! ### Rounding a rational -/

/-- `FpRound(fmt, q)`: the model's rounding as a function of the format and the real (R252, D10). -/
def roundReal (p : Impl) (w : Nat) (q : ℚ) : BitVec w := fpRound p w (exactReal q.num q.den 0)

/-- Delivering a real: rounded when nonzero, the special result z when it is 0 (R252, R254). -/
def deliverReal (p : Impl) (w : Nat) (q : ℚ) (z : BitVec w) : BitVec w := if q = 0 then z else roundReal p w q

/-- What the model delivers depends on the real alone (R252). -/
theorem fpDeliver_eq_deliverReal (p : Impl) (w : Nat) {man : Int} {den : Nat} {exp : Int} {q : ℚ} (z : BitVec w)
    (hden : den ≠ 0) (hq : (man : ℚ) / den * 2 ^ exp = q) : fpDeliver p w man den exp z = deliverReal p w q z := by
  have hzero : q = 0 ↔ man = 0 := by simp [← hq, hden, zpow_ne_zero]
  rw [fpDeliver, deliverReal]
  split
  · next h => rw [if_pos (hzero.2 h)]
  · next h => rw [if_neg (mt hzero.1 h), roundReal, exactReal_eq_of_real hden hq (mt hzero.1 h)]

theorem fpDeliver_fpVal (p : Impl) (w : Nat) (x : FpVal) (z : BitVec w) :
    fpDeliver p w x.man 1 x.exp z = deliverReal p w x.toRat z :=
  fpDeliver_eq_deliverReal p w z one_ne_zero (by rw [Nat.cast_one, div_one, FpVal.toRat])

theorem deliverReal_of_ne_zero {p : Impl} {w : Nat} {q : ℚ} {z : BitVec w} (h : q ≠ 0) :
    deliverReal p w q z = roundReal p w q := if_neg h

/-! ### Exact results (R252) -/

section Candidate

variable {w : Nat} {r : ExactReal} (hden : r.den = 1) (hsig : r.num.log2 ≤ fpFracBits w)

include hden hsig

theorem fpCandidate_normal (hlow : 1 - fpBias w ≤ r.exp + r.num.log2)
    (hhigh : r.exp + r.num.log2 + fpBias w < 2 ^ fpExpBits w) :
    fpCandidate w r = some (fpCode w r.neg (r.exp + r.num.log2 + fpBias w).toNat
      (r.num * 2 ^ (fpFracBits w - r.num.log2) - 2 ^ fpFracBits w)) := by
  have hfits : ¬(r.den ≠ 1 ∨ fpFracBits w < r.num.log2) := by omega
  simp only [fpCandidate, if_neg hfits, if_pos hlow, if_pos hhigh]

theorem fpCandidate_subnormal (hlow : r.exp + r.num.log2 < 1 - fpBias w)
    (hexp : 1 - fpBias w - fpFracBits w ≤ r.exp) :
    fpCandidate w r = some (fpCode w r.neg 0
      (r.num * 2 ^ (r.exp - (1 - fpBias w - fpFracBits w)).toNat)) := by
  have hfits : ¬(r.den ≠ 1 ∨ fpFracBits w < r.num.log2) := by omega
  simp only [fpCandidate, if_neg hfits, if_neg hlow.not_ge, if_pos hexp]

end Candidate

/-- An integer times a power of two in the one form. -/
theorem exactReal_den_one (man exp : Int) :
    exactReal man 1 exp = ⟨decide (man < 0), oddPart man.natAbs, 1, exp + twos man.natAbs⟩ := by
  have htwos : twos 1 = 0 := rfl
  simp [exactReal, oddPart, htwos]

/-- The sign of a nonzero significand is the sign bit. -/
theorem decide_fpVal_man_neg {w : Nat} (x : BitVec w) (h : significand x ≠ 0) :
    decide ((fpVal x).man < 0) = fpSign x := by
  rw [fpVal_man]
  cases fpSign x <;> simp [Nat.pos_of_ne_zero h]

/-- The only encoding that can have the value of x is x. -/
theorem fpCandidate_exactReal {w : Nat} (hw : IsFormat w) (x : BitVec w) (h : significand x ≠ 0) :
    fpCandidate w (exactReal (fpVal x).man 1 (fpVal x).exp) = some x := by
  have hlog := log2_eq_log2_oddPart_add h
  have hpart := oddPart_mul_two_pow h
  have hfrac := fpFrac_lt x
  rw [exactReal_den_one, decide_fpVal_man_neg x h, fpVal_natAbs_man]
  conv_rhs => rw [← fpCode_fields hw x]
  by_cases hexp : fpExp x = 0
  · have hsig : significand x = fpFrac x := if_pos hexp
    have hlt : (significand x).log2 < fpFracBits w := (Nat.log2_lt h).2 (hsig ▸ hfrac)
    have he : (fpVal x).exp = 1 - fpBias w - fpFracBits w := by simp only [fpVal, if_pos hexp]
    rw [fpCandidate_subnormal rfl (by dsimp only; omega) (by dsimp only; omega) (by dsimp only; omega), hexp]
    simp only [he, add_sub_cancel_left, Int.toNat_natCast, hpart]
    rw [hsig]
  · have hsig : significand x = 2 ^ fpFracBits w + fpFrac x := if_neg hexp
    have hfull : (significand x).log2 = fpFracBits w := (Nat.log2_eq_iff h).2 (by rw [pow_succ]; omega)
    have he : (fpVal x).exp = fpExp x - fpBias w - fpFracBits w := by simp only [fpVal, if_neg hexp]
    have hlt : (fpExp x : Int) < 2 ^ fpExpBits w := by exact_mod_cast fpExp_lt x
    have hshift : fpFracBits w - (oddPart (significand x)).log2 = twos (significand x) := by omega
    have htop : (fpVal x).exp + twos (significand x) + (oddPart (significand x)).log2 + fpBias w = fpExp x := by omega
    rw [fpCandidate_normal rfl (by dsimp only; omega) (by dsimp only; omega) (by dsimp only; omega)]
    simp only [htop, Int.toNat_natCast, hshift, hpart]
    rw [hsig, Nat.add_sub_cancel_left]

/-- A finite nonzero encoding is what its own value rounds to (R252). -/
theorem roundReal_fpReal (p : Impl) {w : Nat} (hw : IsFormat w) (x : BitVec w) (hfin : fpClass p x = .finite)
    (h0 : fpReal x ≠ 0) : roundReal p w (fpReal x) = x := by
  have hsig : significand x ≠ 0 := by
    rw [← fpVal_natAbs_man, Int.natAbs_ne_zero]
    exact mt (fpReal_eq_zero_iff hw x).2 h0
  have hform : exactReal (fpVal x).man 1 (fpVal x).exp = exactReal (fpReal x).num (fpReal x).den 0 :=
    exactReal_eq_of_real one_ne_zero (by rw [Nat.cast_one, div_one, fpReal_eq_toRat hw, FpVal.toRat]) h0
  rw [roundReal, ← hform, fpRound, fpCandidate_exactReal hw x hsig]
  exact if_pos hfin

/-- What is delivered of a real is exact where an encoding has it, and special for 0 (R252, R254). -/
theorem delivers_deliverReal (p : Impl) {w : Nat} (hw : IsFormat w) (q : ℚ) (z : BitVec w) :
    Delivers p q z (deliverReal p w q z) := by
  refine ⟨fun y hy hval h0 => ?_, fun h0 => if_pos h0⟩
  rw [deliverReal_of_ne_zero h0, ← hval, roundReal_fpReal p hw y hy (hval ▸ h0)]

end Sys2Proof.Machine
end

section
/-! Floating-point arithmetic and the conversions that round (R256 to R261, R271 to R273, R297 to R299): each delivers
its real result. -/

namespace Sys2Proof.Machine

open Claims

/-! ### Arithmetic (R258 to R261) -/

/-- The slice function f delivers the real r of two finite operands where it is defined, and is special elsewhere. -/
structure DeliversReal (f : Impl → SliceFn) (op : FpOp) (defined : ℚ → ℚ → Prop) (r : ℚ → ℚ → ℚ) : Prop where
  finite : ∀ p w, IsFormat w → ∀ a b c : BitVec w, fpClass p b = .finite → fpClass p c = .finite →
    defined (fpReal b) (fpReal c) → f p w a b c = deliverReal p w (r (fpReal b) (fpReal c)) (Config.fpSpecial op w b c)
  special : ∀ p w, IsFormat w → ∀ a b c : BitVec w,
    ¬((fpClass p b = .finite ∧ fpClass p c = .finite) ∧ defined (fpReal b) (fpReal c)) →
      f p w a b c = Config.fpSpecial op w b c

namespace DeliversReal

variable {f : Impl → SliceFn} {op : FpOp} {defined : ℚ → ℚ → Prop} {r : ℚ → ℚ → ℚ}

theorem arithmetic (h : DeliversReal f op defined r) (p : Impl) (w : Nat) (hw : IsFormat w) (a b c : BitVec w) :
    Arithmetic p op defined r w a b c (f p w a b c) := by
  unfold Arithmetic
  split
  · next hfin =>
    refine ⟨fun hdef => ?_, fun hundef => h.special p w hw a b c fun hc => hundef hc.2⟩
    rw [h.finite p w hw a b c hfin.1 hfin.2 hdef]
    exact delivers_deliverReal p hw _ _
  · next hfin => exact h.special p w hw a b c fun hc => hfin hc.1

theorem rounds (h : DeliversReal f op defined r) (p : Impl) (w : Nat) (hw : IsFormat w) (a b c : BitVec w)
    (hb : fpClass p b = .finite) (hc : fpClass p c = .finite) (hdef : defined (fpReal b) (fpReal c))
    (h0 : r (fpReal b) (fpReal c) ≠ 0) : f p w a b c = roundReal p w (r (fpReal b) (fpReal c)) := by
  rw [h.finite p w hw a b c hb hc hdef, deliverReal_of_ne_zero h0]

end DeliversReal

theorem faddSlice_deliversReal : DeliversReal faddSlice .fadd (fun _ _ => True) fun x y => x + y where
  finite p w hw a b c hb hc _ := by
    rw [faddSlice, if_pos (bothFinite_iff.2 ⟨hb, hc⟩), fpDeliver_fpVal, FpVal.toRat_add, fpReal_eq_toRat hw,
      fpReal_eq_toRat hw]
  special p w _ a b c h := if_neg fun hfin => h ⟨bothFinite_iff.1 hfin, trivial⟩

theorem fsubSlice_deliversReal : DeliversReal fsubSlice .fsub (fun _ _ => True) fun x y => x - y where
  finite p w hw a b c hb hc _ := by
    rw [fsubSlice, if_pos (bothFinite_iff.2 ⟨hb, hc⟩), fpDeliver_fpVal, FpVal.toRat_sub, fpReal_eq_toRat hw,
      fpReal_eq_toRat hw]
  special p w _ a b c h := if_neg fun hfin => h ⟨bothFinite_iff.1 hfin, trivial⟩

theorem fmulSlice_deliversReal : DeliversReal fmulSlice .fmul (fun _ _ => True) fun x y => x * y where
  finite p w hw a b c hb hc _ := by
    rw [fmulSlice, if_pos (bothFinite_iff.2 ⟨hb, hc⟩), fpDeliver_fpVal, FpVal.toRat_mul, fpReal_eq_toRat hw,
      fpReal_eq_toRat hw]
  special p w _ a b c h := if_neg fun hfin => h ⟨bothFinite_iff.1 hfin, trivial⟩

theorem sign_div_natAbs (z : Int) : (z.sign : ℚ) / z.natAbs = (z : ℚ)⁻¹ := by
  rw [Nat.cast_natAbs, Int.cast_abs]
  obtain hz | rfl | hz := lt_trichotomy z 0
  · rw [Int.sign_eq_neg_one_of_neg hz, abs_of_neg (Int.cast_lt_zero.2 hz), Int.cast_neg, Int.cast_one, neg_div_neg_eq,
      one_div]
  · simp
  · rw [Int.sign_eq_one_of_pos hz, abs_of_pos (Int.cast_pos.2 hz), Int.cast_one, one_div]

/-- The model divides by the divisor's magnitude and moves its sign to the dividend. -/
theorem toRat_div (x y : FpVal) :
    ((x.man * y.man.sign : Int) : ℚ) / y.man.natAbs * 2 ^ (x.exp - y.exp) = x.toRat / y.toRat := by
  rw [Int.cast_mul, mul_div_assoc, sign_div_natAbs, FpVal.toRat, FpVal.toRat, zpow_sub₀ two_ne_zero, mul_div_mul_comm,
    div_eq_mul_inv (x.man : ℚ)]

theorem fdivSlice_deliversReal : DeliversReal fdivSlice .fdiv (fun _ y => y ≠ 0) fun x y => x / y where
  finite p w hw a b c hb hc h0 := by
    have hman : (fpVal c).man ≠ 0 := mt (fpReal_eq_zero_iff hw c).2 h0
    have hguard : (bothFinite p b c && (fpVal c).man != 0) = true := by
      rw [Bool.and_eq_true, bothFinite_iff, bne_iff_ne]
      exact ⟨⟨hb, hc⟩, hman⟩
    rw [fdivSlice, if_pos hguard]
    refine fpDeliver_eq_deliverReal p w _ (Int.natAbs_ne_zero.2 hman) ?_
    rw [toRat_div, fpReal_eq_toRat hw, fpReal_eq_toRat hw]
  special p w hw a b c h := by
    refine if_neg fun hguard => h ?_
    rw [Bool.and_eq_true, bothFinite_iff, bne_iff_ne] at hguard
    exact hguard.imp_right fun hman => mt (fpReal_eq_zero_iff hw c).1 hman

theorem fadd_registerF : RegisterF .fadd faddSlice := by constructor <;> intros <;> rfl
theorem fsub_registerF : RegisterF .fsub fsubSlice := by constructor <;> intros <;> rfl
theorem fmul_registerF : RegisterF .fmul fmulSlice := by constructor <;> intros <;> rfl
theorem fdiv_registerF : RegisterF .fdiv fdivSlice := by constructor <;> intros <;> rfl

/-- Settles O30: each operation delivers its real result, and an encoding is what its own value rounds to. -/
theorem floatArithmetic : Obligations.FloatArithmetic :=
  ⟨fadd_registerF.runs faddSlice_deliversReal.arithmetic, fsub_registerF.runs fsubSlice_deliversReal.arithmetic,
    fmul_registerF.runs fmulSlice_deliversReal.arithmetic, fdiv_registerF.runs fdivSlice_deliversReal.arithmetic⟩

/-! ### From integers (R271 to R273) -/

theorem itofSlice_eq (p : Impl) (w : Nat) (a b c : BitVec w) : itofSlice p w a b c =
    deliverReal p w ((b.toInt : ℚ) * 2 ^ (-c.toInt)) (Config.fpSpecial .itof w b c) :=
  fpDeliver_eq_deliverReal p w _ one_ne_zero (by rw [Nat.cast_one, div_one])

theorem utofSlice_eq (p : Impl) (w : Nat) (a b c : BitVec w) : utofSlice p w a b c =
    deliverReal p w ((b.toNat : ℚ) * 2 ^ (-c.toInt)) (Config.fpSpecial .utof w b c) :=
  fpDeliver_eq_deliverReal p w _ one_ne_zero (by rw [Nat.cast_one, div_one, Int.cast_natCast])

theorem itof_registerF : RegisterF .itof itofSlice := by constructor <;> intros <;> rfl
theorem utof_registerF : RegisterF .utof utofSlice := by constructor <;> intros <;> rfl

/-- Settles O35: the scaled integer is the real that is delivered. -/
theorem integerToFloat : Obligations.IntegerToFloat :=
  ⟨itof_registerF.runs fun p _ hw a b c => itofSlice_eq p _ a b c ▸ delivers_deliverReal p hw _ _,
    utof_registerF.runs fun p _ hw a b c => utofSlice_eq p _ a b c ▸ delivers_deliverReal p hw _ _⟩

/-! ### Between formats (R256, R297 to R299) -/

theorem fpConvert_of_finite (p : Impl) (op : FpOp) (w : Nat) {v : Nat} (hv : IsFormat v) {x : BitVec v}
    (h : fpClass p x = .finite) : fpConvert p op w x = deliverReal p w (fpReal x) (Config.fpSpecial op w x x) := by
  rw [fpConvert, if_pos h, fpDeliver_fpVal, fpReal_eq_toRat hv]

theorem fpConvert_rounds (p : Impl) (op : FpOp) (w : Nat) {v : Nat} (hv : IsFormat v) {x : BitVec v}
    (h : fpClass p x = .finite) (h0 : fpReal x ≠ 0) : fpConvert p op w x = roundReal p w (fpReal x) := by
  rw [fpConvert_of_finite p op w hv h, deliverReal_of_ne_zero h0]

/-- The slices that FPACK, FUNPL and FUNPH take have halves in a format (R256). -/
theorem isFormat_half_laneWidth {t : Packing} (ht : t ≠ .byte) : IsFormat (laneWidth t / 2) := by
  cases t with
  | word => exact .inr (.inl rfl)
  | byte => exact absurd rfl ht
  | half => exact .inl rfl

theorem half_laneWidth_add (t : Packing) : laneWidth t / 2 + laneWidth t / 2 = laneWidth t := by cases t <;> rfl

/-- Two halves joined by a shift, and the upper one read back. -/
theorem extractLsb'_joined_upper {h w : Nat} (hw : h + h = w) (x y : BitVec h) :
    (x.setWidth w <<< h ||| y.setWidth w).extractLsb' h h = x := by
  refine BitVec.eq_of_getLsbD_eq fun i hi => ?_
  have hin : h + i < w := by omega
  simp [hi, hin]

/-- Two halves joined by a shift, and the lower one read back. -/
theorem extractLsb'_joined_lower {h w : Nat} (hw : h + h = w) (x y : BitVec h) :
    (x.setWidth w <<< h ||| y.setWidth w).extractLsb' 0 h = y := by
  refine BitVec.eq_of_getLsbD_eq fun i hi => ?_
  have hin : i < w := by omega
  simp [hi, hin]

theorem fpackSlice_upper (p : Impl) (t : Packing) (a b c : BitVec (laneWidth t)) :
    (fpackSlice p _ a b c).extractLsb' (laneWidth t / 2) (laneWidth t / 2) = fpConvert p .fpack _ b :=
  extractLsb'_joined_upper (half_laneWidth_add t) _ _

theorem fpackSlice_lower (p : Impl) (t : Packing) (a b c : BitVec (laneWidth t)) :
    (fpackSlice p _ a b c).extractLsb' 0 (laneWidth t / 2) = fpConvert p .fpack _ c :=
  extractLsb'_joined_lower (half_laneWidth_add t) _ _

/-- The packed types that the floating-point packs take (R256, R299). -/
theorem floatPackOk_of_ne_byte {t : Packing} (ht : t ≠ .byte) : t.floatPackOk = true := by
  cases t with
  | word => rfl
  | byte => exact absurd rfl ht
  | half => rfl

section FloatPacks

variable {s : State} {t : Packing} (ht : t ≠ .byte)

include ht

theorem fpack_completes {v : VMode} (hr : Ready s v t [.fm, .pm]) (a b c : Reg) :
    Completes (.fpack v t a b c) s v a fun k e =>
      e = slices t (fpackSlice s.impl) (srcA v a s k) (srcB v b s k) (srcC v c s k) := by
  have hdone := runElems_completes (i := .fpack v t a b c) hr (floatPackOk_of_ne_byte ht) rfl rfl
  simpa only [opC_reg_eq_srcC] using hdone

theorem funpl_completes {v : VBit} (hr : Ready s v.mode t [.fm, .pm]) (a b : Reg) :
    Completes (.funpl v t a b) s v.mode a fun k e =>
      e = slices t (funplSlice s.impl) (srcA v.mode a s k) (srcB v.mode b s k) 0#32 :=
  runElems_completes (i := .funpl v t a b) hr (floatPackOk_of_ne_byte ht) rfl rfl

theorem funph_completes {v : VBit} (hr : Ready s v.mode t [.fm, .pm]) (a b : Reg) :
    Completes (.funph v t a b) s v.mode a fun k e =>
      e = slices t (funphSlice s.impl) (srcA v.mode a s k) (srcB v.mode b s k) 0#32 :=
  runElems_completes (i := .funph v t a b) hr (floatPackOk_of_ne_byte ht) rfl rfl

end FloatPacks

/-! ### One rounding function -/

theorem itofSlice_rounds (p : Impl) (w : Nat) (a b c : BitVec w) (h0 : b.toInt ≠ 0) :
    itofSlice p w a b c = roundReal p w ((b.toInt : ℚ) * 2 ^ (-c.toInt)) := by
  rw [itofSlice_eq]
  exact deliverReal_of_ne_zero (mul_ne_zero (Int.cast_ne_zero.2 h0) (zpow_ne_zero _ two_ne_zero))

theorem utofSlice_rounds (p : Impl) (w : Nat) (a b c : BitVec w) (h0 : b.toNat ≠ 0) :
    utofSlice p w a b c = roundReal p w ((b.toNat : ℚ) * 2 ^ (-c.toInt)) := by
  rw [utofSlice_eq]
  exact deliverReal_of_ne_zero (mul_ne_zero (Nat.cast_ne_zero.2 h0) (zpow_ne_zero _ two_ne_zero))

theorem fpackSlice_upper_rounds (p : Impl) (t : Packing) (a b c : BitVec (laneWidth t)) (hb : fpClass p b = .finite)
    (h0 : fpReal b ≠ 0) : (fpackSlice p _ a b c).extractLsb' (laneWidth t / 2) (laneWidth t / 2) =
      roundReal p (laneWidth t / 2) (fpReal b) := by
  rw [fpackSlice_upper, fpConvert_rounds _ _ _ (isFormat_laneWidth t) hb h0]

theorem fpackSlice_lower_rounds (p : Impl) (t : Packing) (a b c : BitVec (laneWidth t)) (hc : fpClass p c = .finite)
    (h0 : fpReal c ≠ 0) : (fpackSlice p _ a b c).extractLsb' 0 (laneWidth t / 2) =
      roundReal p (laneWidth t / 2) (fpReal c) := by
  rw [fpackSlice_lower, fpConvert_rounds _ _ _ (isFormat_laneWidth t) hc h0]

/-- Settles O31: it is `roundReal`, to which every delivery of a nonzero real comes down. -/
theorem roundingOfOneReal : Obligations.RoundingOfOneReal := by
  refine ⟨roundReal, ?fadd, ?fsub, ?fmul, ?fdiv, ?itof, ?utof, ?fpack, ?funpl, ?funph, ?encoding⟩
  case fadd =>
    exact fadd_registerF.runs fun p w hw a b c hb hc => faddSlice_deliversReal.rounds p w hw a b c hb hc trivial
  case fsub =>
    exact fsub_registerF.runs fun p w hw a b c hb hc => fsubSlice_deliversReal.rounds p w hw a b c hb hc trivial
  case fmul =>
    exact fmul_registerF.runs fun p w hw a b c hb hc => fmulSlice_deliversReal.rounds p w hw a b c hb hc trivial
  case fdiv => exact fdiv_registerF.runs fdivSlice_deliversReal.rounds
  case itof => exact itof_registerF.runs fun p w _ => itofSlice_rounds p w
  case utof => exact utof_registerF.runs fun p w _ => utofSlice_rounds p w
  case fpack =>
    exact fun v t a b c s ht hr => completes_lanes
      (fun a b c => ⟨fpackSlice_upper_rounds _ t a b c, fpackSlice_lower_rounds _ t a b c⟩) (fpack_completes ht hr a b c)
  case funpl =>
    exact fun v t a b s ht hr => completes_lanes
      (fun _ _ _ => fpConvert_rounds _ _ _ (isFormat_half_laneWidth ht)) (funpl_completes ht hr a b)
  case funph =>
    exact fun v t a b s ht hr => completes_lanes
      (fun _ _ _ => fpConvert_rounds _ _ _ (isFormat_half_laneWidth ht)) (funph_completes ht hr a b)
  case encoding => exact fun p _ x hw => roundReal_fpReal p hw x

end Sys2Proof.Machine
end

section
/-! Floating-point to integer conversions (R8, R271, R274 to R277): truncation and rounding of exact values, and why the
cap on the power of two (log entry 21) does not show. -/

namespace Sys2Proof.Machine

open Claims

/-! ### Clamping (R8) -/

theorem sat_eq_clampS (x : Int) (n : Nat) : sat x n = clampS x n := by
  have hpos : (0 : Int) < 2 ^ (n - 1) := by positivity
  unfold sat clampS
  split_ifs <;> omega

theorem satu_eq_clampU (x : Int) (n : Nat) : satu x n = clampU x n := by
  have hpos : (0 : Int) < 2 ^ n := by positivity
  unfold satu clampU
  split_ifs <;> omega

/-- A clamp does not tell apart integers that lie beyond 2^m on the same side. -/
def SaturatesFrom (m : Nat) (clamp : Int → Int) : Prop :=
  (∀ x y, 2 ^ m ≤ x → 2 ^ m ≤ y → clamp x = clamp y) ∧ (∀ x y, x ≤ -2 ^ m → y ≤ -2 ^ m → clamp x = clamp y)

theorem clampS_saturatesFrom {n m : Nat} (h : n ≤ m) : SaturatesFrom m fun x => clampS x n := by
  have hle : (2 : Int) ^ (n - 1) ≤ 2 ^ m := pow_le_pow_right₀ one_le_two (by omega)
  have hpos : (0 : Int) < 2 ^ (n - 1) := by positivity
  refine ⟨fun x y hx hy => ?_, fun x y hx hy => ?_⟩ <;> simp only [clampS] <;> split_ifs <;> omega

theorem clampU_saturatesFrom {n m : Nat} (h : n ≤ m) : SaturatesFrom m fun x => clampU x n := by
  have hle : (2 : Int) ^ n ≤ 2 ^ m := pow_le_pow_right₀ one_le_two h
  have hpos : (0 : Int) < 2 ^ n := by positivity
  refine ⟨fun x y hx hy => ?_, fun x y hx hy => ?_⟩ <;> simp only [clampU] <;> split_ifs <;> omega

/-! ### Truncation and rounding of rationals (R8) -/

theorem truncQ_intCast (z : Int) : truncQ z = z := by
  simpa using truncQ_intCast_div z 1

theorem truncQ_div_two_pow (z : Int) (n : Nat) : truncQ ((z : ℚ) / 2 ^ n) = z.tdiv (2 ^ n) := by
  rw [← truncQ_intCast_div]
  push_cast
  rfl

/-- Rounding is truncation of the number moved half a unit away from zero. -/
theorem roundQ_eq_truncQ (q : ℚ) : roundQ q = truncQ (q + (SignType.sign q : ℚ) / 2) := by
  obtain hq | rfl | hq := lt_trichotomy q 0
  · rw [roundQ, truncQ, if_neg hq.not_ge, sign_neg hq, SignType.coe_neg_one, if_neg (by linarith)]
    congr 1
    ring
  · norm_num [roundQ, truncQ]
  · rw [roundQ, truncQ, if_pos hq.le, sign_pos hq, SignType.coe_one, if_pos (by linarith)]

theorem roundQ_intCast (z : Int) : roundQ z = z := by
  rw [roundQ]
  split
  · rw [Int.floor_intCast_add]
    norm_num
  · rw [sub_eq_add_neg, Int.ceil_intCast_add]
    norm_num

theorem roundQ_div_two_pow (z : Int) {n : Nat} (hn : n ≠ 0) :
    roundQ ((z : ℚ) / 2 ^ n) = (z + z.sign * 2 ^ (n - 1)).tdiv (2 ^ n) := by
  have hpow : (2 : ℚ) ^ n = 2 * 2 ^ (n - 1) := by rw [← pow_succ', Nat.sub_add_cancel (Nat.pos_of_ne_zero hn)]
  have hsign : (SignType.sign ((z : ℚ) / 2 ^ n) : ℚ) = (z.sign : ℚ) := by
    rw [div_eq_mul_inv, sign_mul, sign_pos (a := ((2 : ℚ) ^ n)⁻¹) (by positivity), mul_one, sign_intCast,
      Int.sign_eq_sign, SignType.intCast_cast]
  rw [← truncQ_div_two_pow, roundQ_eq_truncQ, hsign]
  congr 1
  push_cast
  rw [hpow]
  field_simp

/-! ### The cap on the power of two -/

theorem tdiv_two_pow_eq_zero {z : Int} {n : Nat} (h : z.natAbs < 2 ^ n) : z.tdiv (2 ^ n) = 0 := by
  rw [← Int.natAbs_eq_zero, Int.natAbs_tdiv, Int.natAbs_pow]
  exact Nat.div_eq_of_lt h

/-- A dividend below both divisors truncates to 0. -/
theorem tdiv_two_pow_min {z : Int} {m : Nat} (h : z.natAbs < 2 ^ m) (n : Nat) :
    z.tdiv (2 ^ min n m) = z.tdiv (2 ^ n) := by
  obtain hn | hn := le_total n m
  · rw [min_eq_left hn]
  · have hlt : z.natAbs < 2 ^ n := h.trans_le (Nat.pow_le_pow_right two_pos hn)
    rw [min_eq_right hn, tdiv_two_pow_eq_zero h, tdiv_two_pow_eq_zero hlt]

/-- A dividend below half the divisor rounds to 0. -/
theorem rounded_tdiv_two_pow_eq_zero {z : Int} {n : Nat} (h : z.natAbs < 2 ^ n) :
    (z + z.sign * 2 ^ n).tdiv (2 ^ (n + 1)) = 0 := by
  have hhalf : (z.sign * 2 ^ n).natAbs ≤ 2 ^ n := by
    rw [Int.natAbs_mul, Int.natAbs_pow, Int.natAbs_sign]
    split <;> simp
  refine tdiv_two_pow_eq_zero ?_
  have htriangle := Int.natAbs_add_le z (z.sign * 2 ^ n)
  rw [pow_succ]
  omega

/-- A dividend below half of both divisors rounds to 0. -/
theorem rounded_tdiv_two_pow_min {z : Int} {m : Nat} (h : z.natAbs < 2 ^ m) (n : Nat) :
    (z + z.sign * 2 ^ (min n (m + 1) - 1)).tdiv (2 ^ min n (m + 1)) = (z + z.sign * 2 ^ (n - 1)).tdiv (2 ^ n) := by
  obtain hn | hn := le_total n (m + 1)
  · rw [min_eq_left hn]
  · obtain ⟨k, rfl⟩ := Nat.exists_eq_add_of_le' hn
    have hlt : z.natAbs < 2 ^ (k + m) := h.trans_le (Nat.pow_le_pow_right two_pos (Nat.le_add_left m k))
    rw [min_eq_right hn]
    exact (rounded_tdiv_two_pow_eq_zero h).trans (rounded_tdiv_two_pow_eq_zero hlt).symm

/-- A nonzero multiple of 2^m saturates, whatever the multiple. -/
theorem clamp_mul_two_pow_min {clamp : Int → Int} {m : Nat} (h : SaturatesFrom m clamp) (z : Int) (n : Nat) :
    clamp (z * 2 ^ min n m) = clamp (z * 2 ^ n) := by
  obtain hn | hn := le_total n m
  · rw [min_eq_left hn]
  rw [min_eq_right hn]
  have hle : (2 : Int) ^ m ≤ 2 ^ n := pow_le_pow_right₀ one_le_two hn
  have hpos : (0 : Int) < 2 ^ m := by positivity
  obtain hz | rfl | hz := lt_trichotomy z 0
  · exact h.2 _ _ (by nlinarith) (by nlinarith)
  · rw [zero_mul, zero_mul]
  · exact h.1 _ _ (by nlinarith) (by nlinarith)

/-- The real that is converted: an integer times, or over, a power of two. -/
theorem toRat_mul_two_zpow (x : FpVal) (k : Int) :
    x.toRat * 2 ^ k = if 0 ≤ x.exp + k then ((x.man * 2 ^ (x.exp + k).toNat : Int) : ℚ)
      else (x.man : ℚ) / 2 ^ (-(x.exp + k)).toNat := by
  rw [FpVal.toRat, mul_assoc, ← zpow_add₀ two_ne_zero]
  split
  · next h =>
    conv_lhs => rw [← Int.toNat_of_nonneg h]
    push_cast
    rw [zpow_natCast]
  · next h =>
    have hneg : x.exp + k = -((-(x.exp + k)).toNat : Int) := by omega
    conv_lhs => rw [hneg, zpow_neg, zpow_natCast]
    rfl

section Cap

variable {clamp : Int → Int} (hclamp : SaturatesFrom scaleCap clamp) {x : FpVal} (k : Int)

include hclamp

theorem clamp_truncScaled (hx : x.man.natAbs < 2 ^ scaleCap) :
    clamp (x.truncScaled k) = clamp (truncQ (x.toRat * 2 ^ k)) := by
  rw [FpVal.truncScaled, toRat_mul_two_zpow]
  split
  · rw [clamp_mul_two_pow_min hclamp, truncQ_intCast]
  · rw [tdiv_two_pow_min hx, truncQ_div_two_pow]

theorem clamp_roundScaled (hx : x.man.natAbs < 2 ^ 63) :
    clamp (x.roundScaled k) = clamp (roundQ (x.toRat * 2 ^ k)) := by
  rw [FpVal.roundScaled, toRat_mul_two_zpow]
  split
  · rw [clamp_mul_two_pow_min hclamp, roundQ_intCast]
  · next h =>
    have hexp : (-(x.exp + k)).toNat ≠ 0 := by omega
    rw [roundQ_div_two_pow x.man hexp]
    exact congrArg clamp (rounded_tdiv_two_pow_min hx _)

end Cap

theorem IsFormat.width_le {w : Nat} (hw : IsFormat w) : w ≤ scaleCap := by obtain rfl | rfl | rfl := hw <;> decide

/-- The significand of every format is below half of 2^scaleCap. -/
theorem fpVal_natAbs_man_lt {w : Nat} (hw : IsFormat w) (x : BitVec w) : (fpVal x).man.natAbs < 2 ^ 63 := by
  have hbits : fpFracBits w + 1 ≤ 63 := by obtain rfl | rfl | rfl := hw <;> decide
  rw [fpVal_natAbs_man]
  exact (significand_lt x).trans_le (Nat.pow_le_pow_right two_pos hbits)

/-! ### The instructions -/

/-- A conversion that clamps the capped integer meets the statement's, which clamps the uncapped one. -/
theorem fpToInt_toInteger {p : Impl} {op : FpOp} {w : Nat} (hw : IsFormat w) {clamp : Int → Int}
    {clamp' : Int → Nat → Int} {conv : FpVal → Int → Int} {conv' : ℚ → Int} {lo hi : Nat → Int}
    (hconv : ∀ (x : BitVec w) k, clamp (conv (fpVal x) k) = clamp' (conv' ((fpVal x).toRat * 2 ^ k)) w)
    (a b c : BitVec w) :
    ToInteger p op clamp' conv' lo hi w a b c (fpToInt p op clamp (lo w) (hi w) conv w a b c) := by
  refine ⟨fun h => ?_, fun h => ?_, fun h => ?_⟩
  · simp only [fpToInt, h, hconv, fpReal_eq_toRat hw]
  · simp only [fpToInt, h, hw.fpSign_eq_msb]
  · simp only [fpToInt, h]

section ToInt

variable {w : Nat} (hw : IsFormat w) (x : BitVec w) (k : Int)

include hw

theorem sat_truncScaled : sat ((fpVal x).truncScaled k) w = clampS (truncQ ((fpVal x).toRat * 2 ^ k)) w := by
  rw [sat_eq_clampS]
  exact clamp_truncScaled (clampS_saturatesFrom hw.width_le) k ((fpVal_natAbs_man_lt hw x).trans (by decide))

theorem satu_truncScaled : satu ((fpVal x).truncScaled k) w = clampU (truncQ ((fpVal x).toRat * 2 ^ k)) w := by
  rw [satu_eq_clampU]
  exact clamp_truncScaled (clampU_saturatesFrom hw.width_le) k ((fpVal_natAbs_man_lt hw x).trans (by decide))

theorem sat_roundScaled : sat ((fpVal x).roundScaled k) w = clampS (roundQ ((fpVal x).toRat * 2 ^ k)) w := by
  rw [sat_eq_clampS]
  exact clamp_roundScaled (clampS_saturatesFrom hw.width_le) k (fpVal_natAbs_man_lt hw x)

theorem satu_roundScaled : satu ((fpVal x).roundScaled k) w = clampU (roundQ ((fpVal x).toRat * 2 ^ k)) w := by
  rw [satu_eq_clampU]
  exact clamp_roundScaled (clampU_saturatesFrom hw.width_le) k (fpVal_natAbs_man_lt hw x)

end ToInt

theorem ftoi_registerF : RegisterF .ftoi ftoiSlice := by constructor <;> intros <;> rfl
theorem ftou_registerF : RegisterF .ftou ftouSlice := by constructor <;> intros <;> rfl
theorem ftoir_registerF : RegisterF .ftoir ftoirSlice := by constructor <;> intros <;> rfl
theorem ftour_registerF : RegisterF .ftour ftourSlice := by constructor <;> intros <;> rfl

/-- Settles O36: beyond the cap a value clamps to the same limit, or truncates and rounds to the same 0. -/
theorem floatToInteger : Obligations.FloatToInteger :=
  ⟨ftoi_registerF.runs fun _ _ hw => fpToInt_toInteger hw (sat_truncScaled hw),
    ftou_registerF.runs fun _ _ hw => fpToInt_toInteger hw (satu_truncScaled hw),
    ftoir_registerF.runs fun _ _ hw => fpToInt_toInteger hw (sat_roundScaled hw),
    ftour_registerF.runs fun _ _ hw => fpToInt_toInteger hw (satu_roundScaled hw)⟩

end Sys2Proof.Machine
end

section
/-! Packing and unpacking (R290 to R299): the two halves of a result slice. -/

namespace Sys2Proof.Machine

open Claims

/-! ### The halves of a slice (R290) -/

/-- The slice e has the upper half x and the lower half y. -/
def HasHalves {w : Nat} (e : BitVec w) (x y : BitVec (w / 2)) : Prop :=
  e.extractLsb' (w / 2) (w / 2) = x ∧ e.extractLsb' 0 (w / 2) = y

/-- The mask of the low k bits keeps just these. -/
theorem and_lowOnes_eq_setWidth {w : Nat} (k : Nat) (x : BitVec w) :
    x &&& lowOnes w k = (x.extractLsb' 0 k).setWidth w := by
  refine BitVec.eq_of_getLsbD_eq fun j hj => ?_
  rw [BitVec.getLsbD_and, getLsbD_lowOnes _ hj, BitVec.getLsbD_setWidth, BitVec.getLsbD_extractLsb', Nat.zero_add,
    decide_eq_true hj, Bool.true_and, Bool.and_comm]

section Halves

variable {w : Nat} (hw : w / 2 + w / 2 = w)

include hw

theorem hasHalves_joined (x y : BitVec (w / 2)) : HasHalves (x.setWidth w <<< (w / 2) ||| y.setWidth w) x y :=
  ⟨extractLsb'_joined_upper hw x y, extractLsb'_joined_lower hw x y⟩

/-- Clearing the bits that the shift drops makes no difference. -/
theorem and_lowOnes_shiftLeft_half (x : BitVec w) : (x &&& lowOnes w (w / 2)) <<< (w / 2) = x <<< (w / 2) := by
  refine BitVec.eq_of_getLsbD_eq fun j hj => ?_
  have hrange : w / 2 ≤ j ∧ j < w / 2 + w / 2 ↔ ¬j < w / 2 := by omega
  rw [getLsbD_and_lowOnes_shiftLeft _ _ _ hj, BitVec.getLsbD_shiftLeft, decide_eq_true hj, Bool.true_and]
  simp only [hrange, decide_not]

/-- Clearing the lower half leaves the upper half in its place. -/
theorem and_not_lowOnes_half (x : BitVec w) :
    x &&& ~~~(lowOnes w (w / 2)) = (x.extractLsb' (w / 2) (w / 2)).setWidth w <<< (w / 2) := by
  refine BitVec.eq_of_getLsbD_eq fun j hj => ?_
  rw [BitVec.getLsbD_and, BitVec.getLsbD_not, getLsbD_lowOnes _ hj, BitVec.getLsbD_shiftLeft, BitVec.getLsbD_setWidth,
    BitVec.getLsbD_extractLsb']
  by_cases hlow : j < w / 2
  · simp [hlow]
  · have hupper : j - w / 2 < w / 2 := by omega
    have hback : w / 2 + (j - w / 2) = j := by omega
    have hin : j - w / 2 < w := by omega
    simp [hlow, hj, hupper, hback, hin]

/-- Shifting the lower half out leaves the upper half. -/
theorem ushiftRight_half (x : BitVec w) : x >>> (w / 2) = (x.extractLsb' (w / 2) (w / 2)).setWidth w := by
  refine BitVec.eq_of_getLsbD_eq fun j hj => ?_
  rw [BitVec.getLsbD_ushiftRight, BitVec.getLsbD_setWidth, BitVec.getLsbD_extractLsb', decide_eq_true hj,
    Bool.true_and]
  by_cases hlow : j < w / 2
  · rw [decide_eq_true hlow, Bool.true_and]
  · rw [decide_eq_false hlow, Bool.false_and, BitVec.getLsbD_of_ge _ _ (by omega)]

/-- PACK joins the lower halves (R291). -/
theorem packSlice_halves (a b c : BitVec w) :
    HasHalves (packSlice w a b c) (b.extractLsb' 0 (w / 2)) (c.extractLsb' 0 (w / 2)) := by
  rw [packSlice, ← and_lowOnes_shiftLeft_half hw b, and_lowOnes_eq_setWidth, and_lowOnes_eq_setWidth]
  exact hasHalves_joined hw _ _

/-- PACKHI joins the upper halves (R292). -/
theorem packhiSlice_halves (a b c : BitVec w) :
    HasHalves (packhiSlice w a b c) (b.extractLsb' (w / 2) (w / 2)) (c.extractLsb' (w / 2) (w / 2)) := by
  rw [packhiSlice, and_not_lowOnes_half hw, ushiftRight_half hw]
  exact hasHalves_joined hw _ _

end Halves

/-! ### Clamped halves (R293, R294) -/

/-- The low bits of an integer's pattern are its shorter pattern. -/
theorem extractLsb'_zero_ofInt {n w : Nat} (h : n ≤ w) (z : Int) :
    (BitVec.ofInt w z).extractLsb' 0 n = BitVec.ofInt n z := by
  apply BitVec.eq_of_toNat_eq
  rw [BitVec.extractLsb'_toNat, Nat.shiftRight_zero, BitVec.toNat_ofInt, BitVec.toNat_ofInt]
  zify
  rw [Int.toNat_of_nonneg (Int.emod_nonneg _ (by positivity)), Int.toNat_of_nonneg (Int.emod_nonneg _ (by positivity)),
    Int.emod_emod_of_dvd z (pow_dvd_pow 2 h)]

/-- A number clamped to n bits is in their range (R8). -/
theorem clampU_mem_range (x : Int) (n : Nat) : 0 ≤ clampU x n ∧ clampU x n < 2 ^ n := by
  have hpos : (0 : Int) < 2 ^ n := by positivity
  unfold clampU
  split_ifs <;> omega

/-- A number clamped to k bits has no bit for the mask of the low k bits to clear. -/
theorem ofInt_clampU_and_lowOnes (w k : Nat) (x : Int) :
    BitVec.ofInt w (clampU x k) &&& lowOnes w k = BitVec.ofInt w (clampU x k) := by
  obtain ⟨hnonneg, hbound⟩ := clampU_mem_range x k
  obtain ⟨n, hn⟩ := Int.eq_ofNat_of_zero_le hnonneg
  have hlt : n < 2 ^ k := by exact_mod_cast hn ▸ hbound
  rw [hn, BitVec.ofInt_natCast, lowOnes, ← BitVec.ofNat_and, Nat.and_two_pow_sub_one_of_lt_two_pow hlt]

/-- PACKSU is PACK of the operands clamped as unsigned integers (R294). -/
theorem packsuSlice_eq_packSlice (w : Nat) (a b c : BitVec w) : packsuSlice w a b c =
    packSlice w a (BitVec.ofInt w (clampU b.toNat (w / 2))) (BitVec.ofInt w (clampU c.toNat (w / 2))) := by
  rw [packsuSlice, packSlice, satu_eq_clampU, satu_eq_clampU, ofInt_clampU_and_lowOnes]

section Clamped

variable {w : Nat} (hw : w / 2 + w / 2 = w)

include hw

/-- PACKS is PACK of the operands clamped as signed integers (R293). -/
theorem packsSlice_eq_packSlice (a b c : BitVec w) : packsSlice w a b c =
    packSlice w a (BitVec.ofInt w (clampS b.toInt (w / 2))) (BitVec.ofInt w (clampS c.toInt (w / 2))) := by
  rw [packsSlice, packSlice, sat_eq_clampS, sat_eq_clampS, and_lowOnes_shiftLeft_half hw]

/-- PACK of two integers' patterns joins their patterns of half the width. -/
theorem packSlice_ofInt_halves (a : BitVec w) (y z : Int) :
    HasHalves (packSlice w a (BitVec.ofInt w y) (BitVec.ofInt w z)) (BitVec.ofInt (w / 2) y)
      (BitVec.ofInt (w / 2) z) := by
  have hjoined := packSlice_halves hw a (BitVec.ofInt w y) (BitVec.ofInt w z)
  rwa [extractLsb'_zero_ofInt (Nat.div_le_self w 2), extractLsb'_zero_ofInt (Nat.div_le_self w 2)] at hjoined

theorem packsSlice_halves (a b c : BitVec w) : HasHalves (packsSlice w a b c)
    (BitVec.ofInt (w / 2) (clampS b.toInt (w / 2))) (BitVec.ofInt (w / 2) (clampS c.toInt (w / 2))) :=
  packsSlice_eq_packSlice hw a b c ▸ packSlice_ofInt_halves hw a _ _

theorem packsuSlice_halves (a b c : BitVec w) : HasHalves (packsuSlice w a b c)
    (BitVec.ofInt (w / 2) (clampU b.toNat (w / 2))) (BitVec.ofInt (w / 2) (clampU c.toNat (w / 2))) :=
  packsuSlice_eq_packSlice w a b c ▸ packSlice_ofInt_halves hw a _ _

end Clamped

/-! ### Integer packing (R291 to R296) -/

/-- PACKHIR is PACKHI of the rounded operands (R295, D30). -/
theorem packhirSlice_eq_packhiSlice (w : Nat) (a b c : BitVec w) : packhirSlice w a b c =
    packhiSlice w 0#w (BitVec.ofInt w (clampS (b.toInt + 2 ^ (w / 2 - 1)) w))
      (BitVec.ofInt w (clampS (c.toInt + 2 ^ (w / 2 - 1)) w)) := by
  rw [packhirSlice, sat_eq_clampS, sat_eq_clampS]

/-- PACKHIUR is PACKHI of the rounded operands (R296). -/
theorem packhiurSlice_eq_packhiSlice (w : Nat) (a b c : BitVec w) : packhiurSlice w a b c =
    packhiSlice w 0#w (BitVec.ofInt w (clampU (b.toNat + 2 ^ (w / 2 - 1)) w))
      (BitVec.ofInt w (clampU (c.toNat + 2 ^ (w / 2 - 1)) w)) := by
  rw [packhiurSlice, satu_eq_clampU, satu_eq_clampU]

/-- Fewer required modules, in any order, ask less of a state. -/
theorem ready_of_subset {s : State} {v : VMode} {t : Packing} {need need' : List ArchModule} (hsub : need' ⊆ need)
    (hr : Ready s v t need) : Ready s v t need' :=
  hr.imp_right fun ⟨hneed, hrest⟩ => ⟨fun m hm => hneed m (hsub hm), hrest⟩

/-- A format B instruction whose slice function meets the relation in every width of two equal halves. -/
theorem RegisterB.runs_of_halves {mk : VMode → Packing → Reg → Reg → Reg → Instr} {need need' : List ArchModule}
    {f : SliceFn} {r : LaneRel} (h : RegisterB mk need' f) (hsub : need' ⊆ need)
    (hf : ∀ w, w / 2 + w / 2 = w → ∀ a b c, r w a b c (f w a b c)) : RunsB mk need r := by
  intro v t a b c s hr
  have hdone := runElems_completes (ready_of_subset hsub hr) (h.wellFormed_eq v t a b c) (h.modules_eq v t a b c)
    (h.exec_eq v t a b c s)
  simp only [opC_reg_eq_srcC] at hdone
  exact completes_lanes (hf _ (half_laneWidth_add t)) hdone

theorem pack_registerB : RegisterB .pack [.pm] packSlice := by constructor <;> intros <;> rfl
theorem packhi_registerB : RegisterB .packhi [.pm] packhiSlice := by constructor <;> intros <;> rfl
theorem packs_registerB : RegisterB .packs [.pm, .sm] packsSlice := by constructor <;> intros <;> rfl
theorem packsu_registerB : RegisterB .packsu [.pm, .sm] packsuSlice := by constructor <;> intros <;> rfl
theorem packhir_registerB : RegisterB .packhir [.pm, .sm] packhirSlice := by constructor <;> intros <;> rfl
theorem packhiur_registerB : RegisterB .packhiur [.pm, .sm] packhiurSlice := by constructor <;> intros <;> rfl

/-- Settles O37: the saturating packs are PACK of clamped operands, and the rounding packs PACKHI of rounded ones. -/
theorem packResults : Obligations.PackResults := by
  have hmodules : [ArchModule.pm, .sm] ⊆ [.sm, .pm] := by decide
  refine ⟨?pack, ?packhi, ?packs, ?packsu, ?packhir, ?packhiur⟩
  case pack => exact pack_registerB.runs_of_halves (List.Subset.refl _) fun _ => packSlice_halves
  case packhi => exact packhi_registerB.runs_of_halves (List.Subset.refl _) fun _ => packhiSlice_halves
  case packs => exact packs_registerB.runs_of_halves hmodules fun _ => packsSlice_halves
  case packsu => exact packsu_registerB.runs_of_halves hmodules fun _ => packsuSlice_halves
  case packhir =>
    exact packhir_registerB.runs_of_halves hmodules fun w hw a b c =>
      packhirSlice_eq_packhiSlice w a b c ▸ packhiSlice_halves hw _ _ _
  case packhiur =>
    exact packhiur_registerB.runs_of_halves hmodules fun w hw a b c =>
      packhiurSlice_eq_packhiSlice w a b c ▸ packhiSlice_halves hw _ _ _

/-! ### Floating-point packing (R297 to R299) -/

/-- The model's conversion is exact where the target has the value, and special for zero, infinity and NaN (R256). -/
theorem fpConvert_converts (p : Impl) (op : FpOp) {v w : Nat} (hv : IsFormat v) (hw : IsFormat w) (x : BitVec v) :
    Converts p op x (fpConvert p op w x) := by
  unfold Converts
  split
  · next hfin =>
    rw [fpConvert_of_finite p op w hv hfin]
    exact delivers_deliverReal p hw _ _
  · next hspecial => exact if_neg hspecial

theorem fpackSlice_converts (p : Impl) {t : Packing} (ht : t ≠ .byte) (a b c : BitVec (laneWidth t)) :
    Converts p .fpack b ((fpackSlice p _ a b c).extractLsb' (laneWidth t / 2) (laneWidth t / 2)) ∧
      Converts p .fpack c ((fpackSlice p _ a b c).extractLsb' 0 (laneWidth t / 2)) := by
  rw [fpackSlice_upper, fpackSlice_lower]
  have hconv := fpConvert_converts p .fpack (isFormat_laneWidth t) (isFormat_half_laneWidth ht)
  exact ⟨hconv b, hconv c⟩

/-- Settles O38: FPACK's halves, FUNPL and FUNPH are each one conversion between the formats of a slice and its half. -/
theorem floatPackResults : Obligations.FloatPackResults := by
  refine ⟨?fpack, ?funpl, ?funph⟩
  case fpack =>
    exact fun v t a b c s ht hr => completes_lanes (fpackSlice_converts s.impl ht) (fpack_completes ht hr a b c)
  case funpl =>
    exact fun v t a b s ht hr => completes_lanes
      (fun _ _ _ => fpConvert_converts _ _ (isFormat_half_laneWidth ht) (isFormat_laneWidth t) _)
      (funpl_completes ht hr a b)
  case funph =>
    exact fun v t a b s ht hr => completes_lanes
      (fun _ _ _ => fpConvert_converts _ _ (isFormat_half_laneWidth ht) (isFormat_laneWidth t) _)
      (funph_completes ht hr a b)

end Sys2Proof.Machine
end

section
/-! Saturating and halving arithmetic (R305 to R320): the clamps and floors of the statements are the model's own, and a
difference clamped to the unsigned range is zero or exact. -/

namespace Sys2Proof.Machine

open Claims

/-! ### Saturation (R306 to R309, R319, R320) -/

theorem ofInt_sat (w : Nat) (x : Int) : BitVec.ofInt w (sat x w) = BitVec.ofInt w (clampS x w) := by
  rw [sat_eq_clampS]

theorem ofInt_satu (w : Nat) (x : Int) : BitVec.ofInt w (satu x w) = BitVec.ofInt w (clampU x w) := by
  rw [satu_eq_clampU]

/-- A difference of slices that is not negative needs no clamp: it is the difference modulo 2^w (R309). -/
theorem subsuSlice_eq (w : Nat) (a b c : BitVec w) :
    subsuSlice w a b c = if b.toNat < c.toNat then 0#w else b - c := by
  have hlt : (b.toNat : Int) < 2 ^ w := by exact_mod_cast b.isLt
  rw [subsuSlice, ofInt_satu, clampU]
  by_cases h : b.toNat < c.toNat
  · rw [if_pos h, if_pos (by omega)]
    rfl
  · have hle : c.toNat ≤ b.toNat := not_lt.1 h
    rw [if_neg h, if_neg (by omega), if_neg (by omega), ← Nat.cast_sub hle, BitVec.ofInt_natCast,
      ← BitVec.toNat_sub_of_le (BitVec.le_def.2 hle), BitVec.ofNat_toNat, BitVec.setWidth_eq]

theorem adds_registerB : RegisterB .adds [.sm] addsSlice := by constructor <;> intros <;> rfl
theorem addsu_registerB : RegisterB .addsu [.sm] addsuSlice := by constructor <;> intros <;> rfl
theorem subs_registerB : RegisterB .subs [.sm] subsSlice := by constructor <;> intros <;> rfl
theorem subsu_registerB : RegisterB .subsu [.sm] subsuSlice := by constructor <;> intros <;> rfl
theorem mulq_registerB : RegisterB .mulq [.sm] mulqSlice := by constructor <;> intros <;> rfl
theorem mulqr_registerB : RegisterB .mulqr [.sm] mulqrSlice := by constructor <;> intros <;> rfl

/-- Settles O39: the model's clamps are the statement's, and SUBSU's is zero or the exact difference. -/
theorem saturatingResults : Obligations.SaturatingResults :=
  ⟨adds_registerB.runs fun w _ _ _ => ofInt_sat w _, addsu_registerB.runs fun w _ _ _ => ofInt_satu w _,
    subs_registerB.runs fun w _ _ _ => ofInt_sat w _, subsu_registerB.runs subsuSlice_eq,
    mulq_registerB.runs fun w _ _ _ => ofInt_sat w _, mulqr_registerB.runs fun w _ _ _ => ofInt_sat w _⟩

/-! ### Halving (R310 to R317) -/

/-- The floor of half an integer is its integer half (R8). -/
theorem ofInt_half_eq_floor (w : Nat) {z : Int} {q : ℚ} (h : (z : ℚ) = q) :
    BitVec.ofInt w (z / 2) = BitVec.ofInt w ⌊q / 2⌋ := by
  have hfloor : ⌊(z : ℚ) / (2 : Nat)⌋ = z / (2 : Nat) := Rat.floor_intCast_div_natCast z 2
  rw [← h]
  exact congrArg (BitVec.ofInt w) hfloor.symm

theorem addh_registerB : RegisterB .addh [.sm] addhSlice := by constructor <;> intros <;> rfl
theorem addhu_registerB : RegisterB .addhu [.sm] addhuSlice := by constructor <;> intros <;> rfl
theorem addhr_registerB : RegisterB .addhr [.sm] addhrSlice := by constructor <;> intros <;> rfl
theorem addhur_registerB : RegisterB .addhur [.sm] addhurSlice := by constructor <;> intros <;> rfl
theorem subh_registerB : RegisterB .subh [.sm] subhSlice := by constructor <;> intros <;> rfl
theorem subhu_registerB : RegisterB .subhu [.sm] subhuSlice := by constructor <;> intros <;> rfl
theorem subhr_registerB : RegisterB .subhr [.sm] subhrSlice := by constructor <;> intros <;> rfl
theorem subhur_registerB : RegisterB .subhur [.sm] subhurSlice := by constructor <;> intros <;> rfl

/-- Settles O40: each slice is an exact integer halved, which is the floor of the rational half. -/
theorem halvingResults : Obligations.HalvingResults :=
  ⟨addh_registerB.runs fun w _ _ _ => ofInt_half_eq_floor w (by push_cast; rfl),
    addhu_registerB.runs fun w _ _ _ => ofInt_half_eq_floor w (by push_cast; rfl),
    addhr_registerB.runs fun w _ _ _ => ofInt_half_eq_floor w (by push_cast; rfl),
    addhur_registerB.runs fun w _ _ _ => ofInt_half_eq_floor w (by push_cast; rfl),
    subh_registerB.runs fun w _ _ _ => ofInt_half_eq_floor w (by push_cast; rfl),
    subhu_registerB.runs fun w _ _ _ => ofInt_half_eq_floor w (by push_cast; rfl),
    subhr_registerB.runs fun w _ _ _ => ofInt_half_eq_floor w (by push_cast; rfl),
    subhur_registerB.runs fun w _ _ _ => ofInt_half_eq_floor w (by push_cast; rfl)⟩

end Sys2Proof.Machine
end

section
/-! Processor control (R325 to R330): the exchange with the system registers, and the cache stages under SYNC, CCTRL and
the sequence that makes stored code fetchable (R372). -/

namespace Sys2Proof.Machine

open Claims

/-! ### XCHGSR (R325) -/

/-- CPU_FEATURES_0 as the number whose bits are the modules (R26). -/
theorem cpuFeatures_eq_sum (p : Impl) : cpuFeatures p =
    BitVec.ofNat 32 (8 * p.hasSM.toNat + 4 * p.hasFM.toNat + 2 * p.hasPM.toNat + p.hasVM.toNat) := by
  have sum : ∀ sm fm pm vm : Bool,
      0#28 ++ BitVec.ofBool sm ++ BitVec.ofBool fm ++ BitVec.ofBool pm ++ BitVec.ofBool vm =
        BitVec.ofNat 32 (8 * sm.toNat + 4 * fm.toNat + 2 * pm.toNat + vm.toNat) := by decide
  exact sum p.hasSM p.hasFM p.hasPM p.hasVM

/-- There is no third system register (R24). -/
theorem sysReg_eq_none (s : State) {n : Word} (h0 : n ≠ 0#32) (h16 : n ≠ 16#32) : s.sysReg n = none := by
  rw [State.sysReg, if_neg h0, if_neg h16]

theorem sysReg_eq_some (s : State) {n : Word} (h : n = 0#32 ∨ n = 16#32) : ∃ w, s.sysReg n = some w := by
  obtain rfl | rfl := h
  · exact ⟨_, sysReg_cpuFeatures s⟩
  · exact ⟨_, sysReg_maxVL s⟩

section Xchgsr

variable {i : Instr} {s : State} {a b : Reg} {n w : Word}

/-- With REGb = 0, XCHGSR reads the system register into REGa; for REGa = 0 that is the same as doing nothing (R11). -/
theorem runXchgsr_read (hn : s.sysReg n = some w) :
    runXchgsr i a Reg.z n s = gated i s (.next (s.setReg a w).advance) := by
  rw [runXchgsr, hn]
  by_cases ha : a = Reg.z
  · subst ha
    rfl
  · rw [if_neg fun h => ha h.1]
    rfl

/-- With REGa = REGb = 0, XCHGSR does nothing, whatever the number (R325). -/
theorem runXchgsr_nothing : runXchgsr i Reg.z Reg.z n s = gated i s (.next (s.setReg Reg.z w).advance) := rfl

/-- A number without a system register (R28, D19). -/
theorem runXchgsr_unknown (hab : ¬(a = Reg.z ∧ b = Reg.z)) (hn : s.sysReg n = none) :
    runXchgsr i a b n s = gated i s (.fault (.unknownSystemRegister n s)) := by
  rw [runXchgsr, if_neg hab, hn]

/-- A write to one of the two system registers (R28, D19). -/
theorem runXchgsr_readOnly (hb : b ≠ Reg.z) (hn : s.sysReg n = some w) :
    runXchgsr i a b n s = gated i s (.fault (.readOnlySystemRegister n s)) := by
  rw [runXchgsr, if_neg fun h => hb h.2, hn]
  exact congrArg (gated i s) (if_neg hb)

end Xchgsr

/-- `mk` makes the terms of XCHGSR in one format, all of which exchange with system register number n in state s; none
needs a module (R325). -/
structure Exchanges (mk : Reg → Reg → Instr) (n : Word) (s : State) : Prop where
  exec_eq : ∀ a b, exec (mk a b) s = runXchgsr (mk a b) a b n s
  wellFormed_eq : ∀ a b, (mk a b).wellFormed = true
  modules_eq : ∀ a b, (mk a b).modules = []

namespace Exchanges

variable {mk : Reg → Reg → Instr} {n : Word} {s : State}

theorem completes (h : Exchanges mk n s) {a b : Reg} {w : Word}
    (hrun : runXchgsr (mk a b) a b n s = gated (mk a b) s (.next (s.setReg a w).advance)) :
    Completes (mk a b) s .scalar a fun _ e => e = w :=
  gated_setReg_completes (h.wellFormed_eq a b) (h.modules_eq a b) ((h.exec_eq a b).trans hrun)

theorem reads (h : Exchanges mk n s) (a : Reg) {w : Word} (hn : s.sysReg n = some w) :
    Completes (mk a Reg.z) s .scalar a fun _ e => e = w :=
  h.completes (runXchgsr_read hn)

theorem nothing (h : Exchanges mk n s) : Completes (mk Reg.z Reg.z) s .scalar Reg.z fun _ _ => True :=
  completes_mono (fun _ _ _ => trivial) (h.completes (runXchgsr_nothing (w := 0#32)))

theorem faults (h : Exchanges mk n s) {a b : Reg} {f : Fault}
    (hrun : runXchgsr (mk a b) a b n s = gated (mk a b) s (.fault f)) : exec (mk a b) s = .fault f := by
  rw [h.exec_eq, hrun, gated_pass _ (h.wellFormed_eq a b) (available_of_has (by simp [h.modules_eq]))]

theorem unknown (h : Exchanges mk n s) {a b : Reg} (hab : ¬(a = Reg.z ∧ b = Reg.z)) (h0 : n ≠ 0#32)
    (h16 : n ≠ 16#32) : exec (mk a b) s = .fault (.unknownSystemRegister n s) :=
  h.faults (runXchgsr_unknown hab (sysReg_eq_none s h0 h16))

theorem readOnly (h : Exchanges mk n s) (a : Reg) {b : Reg} (hn : n = 0#32 ∨ n = 16#32) (hb : b ≠ Reg.z) :
    exec (mk a b) s = .fault (.readOnlySystemRegister n s) := by
  obtain ⟨w, hw⟩ := sysReg_eq_some s hn
  exact h.faults (runXchgsr_readOnly hb hw)

end Exchanges

theorem xchgsr_exchanges (c : Reg) (s : State) : Exchanges (.xchgsr · · c) (s.reg c) s := by
  constructor <;> intros <;> rfl

theorem xchgsrI_exchanges (im : BitVec 15) (s : State) : Exchanges (.xchgsrI · · im) (immI15HL im) s := by
  constructor <;> intros <;> rfl

/-- Settles O49: both formats are the exchange with a number, from REGc or the immediate. -/
theorem systemRegisterExchange : Obligations.SystemRegisterExchange := by
  intro s a c im
  have hB := xchgsr_exchanges c s
  have hC := xchgsrI_exchanges im s
  have hfeatures : ∀ {n}, n = 0#32 → s.sysReg n = some (BitVec.ofNat 32 (8 * s.impl.hasSM.toNat +
      4 * s.impl.hasFM.toNat + 2 * s.impl.hasPM.toNat + s.impl.hasVM.toNat)) := fun h => by
    rw [h, sysReg_cpuFeatures, cpuFeatures_eq_sum]
  have hlength : ∀ {n}, n = 16#32 →
      s.sysReg n = some (if s.impl.hasVM = true then BitVec.ofNat 32 s.impl.n else 0#32) := fun h => by
    rw [h, sysReg_maxVL, maxVL_eq]
  exact ⟨fun h => hB.reads a (hfeatures h), fun h => hB.reads a (hlength h), hB.nothing,
    fun h => hC.reads a (hfeatures h), fun h => hC.reads a (hlength h), hC.nothing,
    fun b hab => ⟨hB.unknown hab, hB.readOnly a, hC.unknown hab, hC.readOnly a⟩⟩

/-! ### SYNC (R328) -/

/-- SYNC needs no module: it is the move of the stages alone. -/
theorem exec_sync (s : State) : exec .sync s = .next s.syncStages.advance :=
  show execSync s = _ from gated_pass _ rfl rfl

/-- Settles O51: what the move of the stages leaves alone is what each reader's lemma says. -/
theorem syncResult : Obligations.SyncResult := by
  intro s hs
  refine ⟨_, exec_sync s, fun _ => rfl, fun _ _ => rfl, fun _ => rfl, rfl, rfl, rfl, rfl, fun x => ?_⟩
  rw [advance_stage, syncStages_stage hs.stages]

/-! ### CCTRL (R329) -/

theorem entire_holds (p : Impl) (x : Nat) : CacheRange.holds p .entire x = true := rfl

/-- An address is in the cache line that contains another (R329). -/
theorem line_holds_iff (p : Impl) (a : Word) (x : Nat) :
    CacheRange.holds p (.line a) x = true ↔ x / p.cacheLine = a.toNat / p.cacheLine := beq_iff_eq

/-- The operation b invalidates data and concerns a byte that is stored and not flushed (R329). -/
def LosesData (s : State) (a b : Word) : Prop :=
  (b = 0x001#32 ∧ s.holdsDirty .entire = true) ∨ (b = 0x101#32 ∧ s.holdsDirty (.line a) = true)

theorem not_losesData {s : State} {b : Word} (a : Word) (h1 : b ≠ 0x001#32) (h101 : b ≠ 0x101#32) :
    ¬LosesData s a b := fun h => h.elim (h1 ·.1) (h101 ·.1)

theorem losesData_iff {s : State} (h : Stages.wf s.stages = true) (a b : Word) : LosesData s a b ↔
    (b = 0x001#32 ∧ ∃ x, s.stage x = .stored) ∨
      (b = 0x101#32 ∧ ∃ x, s.stage x = .stored ∧ x.toNat / s.impl.cacheLine = a.toNat / s.impl.cacheLine) := by
  simp only [LosesData, holdsDirty_iff h, line_holds_iff, entire_holds, and_true]

theorem cacheOp_of_losesData {s : State} {a b : Word} (h : LosesData s a b) :
    cacheOp a b s = .fault (.dirtyDataInvalidate a b s) := by
  obtain ⟨rfl, hdirty⟩ | ⟨rfl, hdirty⟩ := h
  · exact if_pos hdirty
  · exact if_pos hdirty

/-- The stage of byte x, at stage g before the operation b on address a (R329). -/
def stageAfter (p : Impl) (a b x : Word) (g : Stage) : Stage :=
  if g = .stored ∧ (b = 0x201#32 ∨ (b = 0x301#32 ∧ x.toNat / p.cacheLine = a.toNat / p.cacheLine)) then .flushed
  else if g = .flushed ∧ (b = 0x000#32 ∨ (b = 0x100#32 ∧ x.toNat / p.cacheLine = a.toNat / p.cacheLine)) then
    .invalidated
  else g

/-- A cache operation that loses no data completes and moves the stages as said (R329). -/
theorem cacheOp_of_not_losesData {s : State} {a b : Word} (h : ¬LosesData s a b) :
    ∃ u, cacheOp a b s = .next u ∧ ∀ x, u.stage x = stageAfter s.impl a b x (s.stage x) := by
  have hall : b = 0x001#32 → ¬s.holdsDirty .entire = true := fun hb hd => h (.inl ⟨hb, hd⟩)
  have hline : b = 0x101#32 → ¬s.holdsDirty (.line a) = true := fun hb hd => h (.inr ⟨hb, hd⟩)
  have moved {r : CacheRange} {f g : Stage} (hf : f ≠ .clean) (hr : ∀ x : Word, stageAfter s.impl a b x (s.stage x) =
      if s.stage x = f ∧ CacheRange.holds s.impl r x.toNat = true then g else s.stage x) :
      ∃ u, (.next (s.moveStage r f g) : Result) = .next u ∧ ∀ x, u.stage x = stageAfter s.impl a b x (s.stage x) :=
    ⟨_, rfl, fun x => by rw [moveStage_stage _ _ _ _ hf, hr]⟩
  unfold cacheOp
  split_ifs with h0 h1 h2 h100 h101 h201 h301
  · exact moved (by decide) fun x => by simp [stageAfter, h0, entire_holds]
  · exact ⟨s, if_neg (hall h1), fun x => by simp [stageAfter, h1]⟩
  · exact ⟨s, rfl, fun x => by simp [stageAfter, h2]⟩
  · exact moved (by decide) fun x => by simp [stageAfter, h100, line_holds_iff]
  · exact ⟨s, if_neg (hline h101), fun x => by simp [stageAfter, h101]⟩
  · exact moved (by decide) fun x => by simp [stageAfter, h201, entire_holds]
  · exact moved (by decide) fun x => by simp [stageAfter, h301, line_holds_iff]
  · exact ⟨s, rfl, fun x => by simp [stageAfter, h0, h100, h201, h301]⟩

/-- CCTRL needs no module: it is the cache operation, and the write of the destination's own value. -/
theorem exec_cctrl (a b : Reg) (s : State) : exec (.cctrl a b) s =
    andThen (cacheOp (s.reg a) (s.reg b) s) fun u => .next (u.setReg a (u.reg a)).advance :=
  show execCctrl a b s = _ from gated_pass _ rfl rfl

theorem reg_setReg_reg (s : State) (a q : Reg) : (s.setReg a (s.reg a)).reg q = s.reg q := by
  rw [reg_setReg]
  split
  · next h => rw [h.1]
  · rfl

/-- From s to t nothing has changed but pc and the cache stages. -/
structure SameButStages (s t : State) : Prop where
  reg : ∀ q, t.reg q = s.reg q
  elem : ∀ q k, t.elem q k = s.elem q k
  byte : ∀ x, t.byte x = s.byte x
  standby : t.standby = s.standby
  impl : t.impl = s.impl
  host : t.host = s.host

theorem cacheOp_sameButStages {s u : State} {p q : Word} (h : cacheOp p q s = .next u) : SameButStages s u := by
  obtain rfl | ⟨r, f, g, rfl⟩ := cacheOp_eq_next h <;> constructor <;> intros <;> rfl

/-- CCTRL that loses no data completes: the operation moves the stages, and the write changes no register. -/
theorem exec_cctrl_next {s : State} {a b : Reg} (h : ¬LosesData s (s.reg a) (s.reg b)) :
    ∃ t, exec (.cctrl a b) s = .next t ∧ SameButStages s t ∧ t.pc = s.pc + 4#32 ∧
      ∀ x, t.stage x = stageAfter s.impl (s.reg a) (s.reg b) x (s.stage x) := by
  obtain ⟨u, hop, hstage⟩ := cacheOp_of_not_losesData h
  have hsame := cacheOp_sameButStages hop
  rw [exec_cctrl, hop]
  exact ⟨_, rfl, { hsame with reg := fun q => (reg_setReg_reg u a q).trans (hsame.reg q) },
    congrArg (· + 4#32) (cacheOp_updated hop).pc_eq, hstage⟩

/-- Settles O52: whether the operation loses data decides between the fault and the move of the stages. -/
theorem cacheControlResult : Obligations.CacheControlResult := by
  intro s a b dirty hs hdirty
  rw [hdirty.trans (losesData_iff hs.stages _ _).symm]
  refine ⟨fun h => ?_, fun h => ?_⟩
  · obtain ⟨t, hexec, hsame, hpc, hstage⟩ := exec_cctrl_next h
    exact ⟨t, hexec, hsame.reg, hsame.elem, hsame.byte, hpc, hsame.standby, hsame.impl, hsame.host, hstage⟩
  · rw [exec_cctrl, cacheOp_of_losesData h, andThen_fault]

/-! ### Making stored code fetchable (R372) -/

/-- Settles O53: stored bytes are flushed, flushed ones invalidated, and invalidated ones made clean. -/
theorem storedCodeBecomesFetchable : Obligations.StoredCodeBecomesFetchable := by
  intro s a b c d hs hb hd
  obtain ⟨t, hexecT, hsameT, hpcT, hstageT⟩ :=
    exec_cctrl_next (s := s) (a := a) (b := b) (not_losesData _ (by rw [hb]; decide) (by rw [hb]; decide))
  have hdT : t.reg d = 0#32 := (hsameT.reg d).trans hd
  obtain ⟨u, hexecU, hsameU, hpcU, hstageU⟩ :=
    exec_cctrl_next (s := t) (a := c) (b := d) (not_losesData _ (by rw [hdT]; decide) (by rw [hdT]; decide))
  have hu : u.Inv := exec_inv (exec_inv hs hexecT) hexecU
  obtain ⟨w, hexecW, hregW, helemW, hbyteW, hpcW, -, -, -, hstageW⟩ := syncResult u hu
  refine ⟨t, u, w, hexecT, hexecU, hexecW, fun x => ?_, fun x => ?_, fun q => ?_, fun q k => ?_, ?_⟩
  · rw [hstageW, hstageU, hstageT, hb, hdT]
    cases s.stage x <;> simp [stageAfter]
  · rw [hbyteW, hsameU.byte, hsameT.byte]
  · rw [hregW, hsameU.reg, hsameT.reg]
  · rw [helemW, hsameU.elem, hsameT.elem]
  · rw [hpcW, hpcU, hpcT, BitVec.add_assoc, BitVec.add_assoc]
    rfl

end Sys2Proof.Machine
end

section
/-! Standby and the end of a run (R327, R341, R342, R366): what enters and leaves standby, and that only Halt refuses a
step. -/

namespace Sys2Proof.Machine

/-! ### WAIT and standby (R327, R342) -/

/-- WAIT needs no module: it is the entry into standby alone. -/
theorem exec_wait (s : State) : exec .wait s = .next { s.advance with standby := true } :=
  show execWait s = _ from gated_pass _ rfl rfl

theorem Updated.standby_eq {s u : State} (h : Updated s u) : u.standby = s.standby := by
  induction h with
  | refl => rfl
  | setReg _ r w ih | setElem _ r i w ih | memWrite _ a n w ih | moveStage _ r f g _ ih | syncStages _ ih => simp [ih]

theorem Finished.standby_eq {i : Instr} {s u t : State} (h : Finished i s u t) (hi : i ≠ .wait) :
    t.standby = u.standby := by
  cases h with
  | advance => rfl
  | standby hwait => exact absurd hwait hi
  | branch => rfl
  | jump => rfl

/-- Settles O59: of the ways an instruction can finish, only WAIT's touches the standby state. -/
theorem onlyWaitEntersStandby : Obligations.OnlyWaitEntersStandby := by
  intro i s t h
  by_cases hi : i = .wait
  · subst hi
    rw [exec_wait] at h
    cases h
    simp
  · obtain ⟨u, hu, ht⟩ := exec_eq_next h
    rw [ht.standby_eq hi, hu.standby_eq]
    simp [hi]

/-- A step in standby is a moment of standby (R327). -/
theorem step_standby {s : State} (hhalt : s.halts = false) (hsb : s.standby = true) :
    step s = .next (standbyMoment s) := by
  rw [step, if_neg (by simp [hhalt]), if_pos hsb]

/-- A moment of standby takes the next entry of the stream (R327). -/
theorem standbyMoment_of_nextWake {s : State} {b : Bool} {h : HostPort} (hsb : s.standby = true)
    (hwake : s.host.nextWake = some (b, h)) : standbyMoment s = { s with standby := !b, host := h } := by
  rw [standbyMoment, hwake, hsb]
  rfl

theorem standbyMoment_of_exhausted {s : State} (hwake : s.host.nextWake = none) : standbyMoment s = s := by
  rw [standbyMoment, hwake]

/-- Settles O50: the next entry of the stream in each of its four forms. -/
theorem waitAndStandby : Obligations.WaitAndStandby := by
  refine ⟨exec_wait, fun s l k hhalt hsb => ?_⟩
  rw [step_standby hhalt hsb]
  refine ⟨fun hl => ?event, fun hl => ?noEvent, fun hl hk => ?endless, fun hl hk => ?exhausted⟩
  case event => rw [standbyMoment_of_nextWake hsb (nextWake_cons _ _ _ hl), Bool.not_true]
  case noEvent => rw [standbyMoment_of_nextWake hsb (nextWake_cons _ _ _ hl), Bool.not_false, ← hsb]
  case endless => rw [standbyMoment_of_nextWake hsb (nextWake_endless _ _ hl hk)]
  case exhausted => rw [standbyMoment_of_exhausted (nextWake_eq_none.2 ⟨hl, hk⟩)]

/-! ### What an instruction answers (R341) -/

/-- The result is a next state or a fault, and not a refusal. -/
def Answers (r : Result) : Prop := ∀ e, r ≠ .refused e

theorem answers_next (s : State) : Answers (.next s) := nofun

theorem answers_fault (f : Fault) : Answers (.fault f) := nofun

namespace Answers

variable {s : State} {k : Result}

theorem gated (hk : Answers k) (i : Instr) (s : State) : Answers (Machine.gated i s k) := by
  unfold Machine.gated
  split
  · exact hk
  · exact answers_fault _

theorem vlChecked (hk : Answers k) (v : VMode) : Answers (Machine.vlChecked v s k) := by
  unfold Machine.vlChecked
  split
  · exact hk
  · exact answers_fault _

theorem checkAccess (hk : Answers k) (x : Word) (n : Nat) (kind : AccessKind) :
    Answers (Machine.checkAccess s x n kind k) := by
  unfold Machine.checkAccess
  split_ifs
  · exact answers_fault _
  · exact hk
  · exact answers_fault _

theorem andThen {r : Result} {f : State → Result} (hr : Answers r) (hf : ∀ u, Answers (f u)) :
    Answers (Machine.andThen r f) := by
  cases r with
  | next u => exact hf u
  | fault g => exact answers_fault g
  | refused e => exact absurd rfl (hr e)

theorem forElems {body : Nat → State → Result} (hbody : ∀ i u, Answers (body i u)) (n i : Nat) (s : State) :
    Answers (Machine.forElems body n i s) := by
  induction n generalizing i s with
  | zero => exact answers_next s
  | succ n ih => exact (hbody i s).andThen (ih (i + 1))

theorem runXchgsr (i : Instr) (a b : Reg) (n : Word) : Answers (Machine.runXchgsr i a b n s) := by
  refine gated ?_ i s
  split
  · exact answers_next _
  · split
    · exact answers_fault _
    · split
      · exact answers_next _
      · exact answers_fault _

theorem cacheOp (a b : Word) : Answers (Machine.cacheOp a b s) := by
  by_cases h : LosesData s a b
  · rw [cacheOp_of_losesData h]
    exact answers_fault _
  · obtain ⟨u, hop, -⟩ := cacheOp_of_not_losesData h
    rw [hop]
    exact answers_next u

end Answers

/-- No instruction is refused: each of the shapes of a meaning answers (R341). -/
theorem exec_answers (i : Instr) (s : State) : Answers (exec i s) := by
  have hshape := exec_shape i s
  unfold ExecShape at hshape
  obtain ⟨v, a, b, x, f, e, -⟩ | ⟨v, a, b, x, k, n, ext, e, -⟩ | ⟨v, a, b, x, k, e, -⟩ | ⟨v, a, b, x, k, n, -, e, -⟩ |
    ⟨im, c, e, -⟩ | hrest := hshape
  · exact e ▸ ((answers_next _).vlChecked v).gated i s
  · have hloop := Answers.forElems (body := loadElem v a b x k n ext) fun _ _ => (answers_next _).checkAccess _ _ _
    exact e ▸ (((hloop _ _ _).andThen fun _ => answers_next _).vlChecked v).gated i s
  · exact e ▸ ((answers_next _).vlChecked v).gated i s
  · have hloop := Answers.forElems (body := storeElem v a b x k n) fun _ _ => (answers_next _).checkAccess _ _ _
    exact e ▸ (((hloop _ _ _).andThen fun _ => answers_next _).vlChecked v).gated i s
  · exact e ▸ (answers_next _).gated i s
  obtain ⟨a, b, c, rfl⟩ | ⟨a, b, im, rfl⟩ | ⟨a, b, rfl⟩ | rfl | rfl | ⟨a, im, rfl⟩ | ⟨a, im, rfl⟩ | ⟨a, im, rfl⟩ |
    ⟨a, im, rfl⟩ | ⟨a, im, rfl⟩ | ⟨a, im, rfl⟩ | ⟨a, im, rfl⟩ := hrest
  · exact Answers.runXchgsr (.xchgsr a b c) a b (s.reg c)
  · exact Answers.runXchgsr (.xchgsrI a b im) a b (immI15HL im)
  · exact ((Answers.cacheOp _ _).andThen fun _ => answers_next _).gated (.cctrl a b) s
  · exact (answers_next _).gated .wait s
  · exact (answers_next _).gated .sync s
  · exact (answers_next _).gated (.j a im) s
  · exact (answers_next _).gated (.jl a im) s
  · exact ((answers_next _).checkAccess _ _ _).gated (.ldwpc a im) s
  · exact ((answers_next _).checkAccess _ _ _).gated (.stwpc a im) s
  · exact (answers_next _).gated (.addpc a im) s
  · exact (answers_next _).gated (.addpchi a im) s
  · exact (answers_next _).gated (.ldi a im) s

/-! ### What a step refuses (R366) -/

/-- A step of a run that has not ended answers. -/
theorem step_answers {s : State} (h : s.halts = false) : Answers (step s) := by
  rw [step, if_neg (by simp [h])]
  split
  · exact answers_next _
  · split
    · unfold stepWord
      split
      · exact exec_answers _ _
      · exact answers_fault _
    · exact answers_fault _

theorem step_halted {s : State} (h : s.halts = true) : step s = .refused (.halted s) := if_pos h

/-- A step refuses just when the host's Halt predicate holds, and reports the state it found (R366). -/
theorem step_eq_refused {s : State} {e : Refusal} : step s = .refused e ↔ s.halts = true ∧ e = .halted s := by
  cases h : s.halts with
  | false => simpa using step_answers h e
  | true =>
    rw [step_halted h]
    simp [eq_comm]

theorem step_eq_halted {s : State} : step s = .refused (.halted s) ↔ s.halts = true := by
  simp [step_eq_refused]

/-- Settles O60: instructions answer, and the two Halt predicates hold where their facts do. -/
theorem noInstructionIsRefused : Obligations.NoInstructionIsRefused := by
  refine ⟨exec_answers, fun s e => step_eq_refused, fun s a hhalt => ?_, fun s hhalt => ?_⟩
  · rw [step_eq_halted, State.halts, hhalt]
    exact decide_eq_true_iff
  · rw [step_eq_halted, State.halts, hhalt, ← nextWake_eq_none]
    simp [HaltPred.holds]

end Sys2Proof.Machine
end
